-- ==== Sys2Proof/Word.lean ====
section
/-! DEFINITION. The word types of the LS-8 engine: the byte (00_scope.md R6 `XLEN`, R7) and the register index
(10_state.md R13). -/

namespace Sys2Proof

/-- A register, a memory cell, an operand byte: 8 bits, read as an unsigned number (00_scope.md R7). -/
abbrev Byte := BitVec 8

/-- The index of one of the eight general registers (10_state.md R13). -/
abbrev Reg := Fin 8

/-- Register 7 is the stack pointer (10_state.md R15, 00_scope.md R6 `SP_INDEX`). -/
abbrev spIndex : Reg := 7

end Sys2Proof
end

