-- ==== Sys2Proof/Config.lean ====
section
/-! DEFINITION. The implementation parameters of 00_scope.md R6. The values this hardware takes stand in
Sys2Proof/Machine/Hardware.lean. The machine leaves no value open, so no free value is declared. -/

namespace Sys2Proof

/-- The parameters the model takes (00_scope.md R6). They are fixed for a machine and no part of its state (10_state.md
R29). -/
structure Config where
  /-- `MEM_SIZE`: the number of memory cells. -/
  memSize : Nat
  /-- `SP_INIT`: what register 7 holds after reset. -/
  spInit : Byte
  /-- `OPC_MUL`. -/
  opcMul : Byte
  /-- `OPC_PUSH`. -/
  opcPush : Byte
  /-- `OPC_POP`. -/
  opcPop : Byte
  /-- `OPC_CALL`. -/
  opcCall : Byte
  /-- `OPC_RET`. -/
  opcRet : Byte
deriving DecidableEq, Repr

end Sys2Proof
end

