-- ==== Sys2Proof/Machine/Hardware.lean ====
section
/-! DEFINITION. The parameter values and fixed opcode bytes of this hardware (00_scope.md R6, 30_encoding.md R51). -/

namespace Sys2Proof

/-- LDI (30_encoding.md R51, from the source's example). -/
def opcLdi : Byte := 0x82#8

/-- PRN (30_encoding.md R51, from the source's example). -/
def opcPrn : Byte := 0x47#8

/-- HLT (30_encoding.md R51, from the source's example). -/
def opcHlt : Byte := 0x01#8

/-- ADD (30_encoding.md R51, from the source's example). -/
def opcAdd : Byte := 0xA0#8

/-- The default of every parameter of 00_scope.md R6, "which is the value this hardware takes".
UNVERIFIED: the spec calls `MEM_SIZE` and `SP_INIT` unaudited (log entry 2, unsafe).
PRESUMED: the spec takes the five opcode bytes from general knowledge (log entry 3, unsafe). -/
def hardware : Config where
  memSize := 255
  spInit := 0xF4#8
  opcMul := 0xA2#8
  opcPush := 0x45#8
  opcPop := 0x46#8
  opcCall := 0x50#8
  opcRet := 0x11#8

/-- The legal range of the parameters (00_scope.md R6): 3 to 256 cells, and nine distinct opcode bytes. -/
abbrev Config.Legal (c : Config) : Prop :=
  3 ≤ c.memSize ∧ c.memSize ≤ 256 ∧
    [opcLdi, opcPrn, opcHlt, opcAdd, c.opcMul, c.opcPush, c.opcPop, c.opcCall, c.opcRet].Nodup

end Sys2Proof
end

