-- ==== Sys2Proof/Syntax.lean ====
section
/-! DEFINITION. The nine instructions (30_encoding.md R45, R51), one constructor for each row of the opcode table. -/

namespace Sys2Proof

/-- An instruction with the operand bytes its format has (30_encoding.md R45). An operand stays a whole byte: the byte
is the register index, no bit of it is masked, and 8 or more is a fault of the handler (R48). Bytes that a format does
not use are fetched and ignored, so they are no part of the instruction. -/
inductive Instr where
  /-- `LDI rA,imm` (42_register_io.md R81): `a` a register, `b` an immediate. -/
  | ldi (a b : Byte)
  /-- `PRN rA` (42_register_io.md R82). -/
  | prn (a : Byte)
  /-- `HLT` (44_control.md R85). -/
  | hlt
  /-- `MUL rA,rB` (41_alu.md R80). -/
  | mul (a b : Byte)
  /-- `ADD rA,rB` (41_alu.md R79). -/
  | add (a b : Byte)
  /-- `PUSH rA` (43_stack.md R83). -/
  | push (a : Byte)
  /-- `POP rA` (43_stack.md R84). -/
  | pop (a : Byte)
  /-- `CALL rA` (44_control.md R86). -/
  | call (a : Byte)
  /-- `RET` (44_control.md R87). -/
  | ret
deriving DecidableEq, Repr

end Sys2Proof
end

