-- ==== Sys2Proof/Decode.lean ====
section
/-! DEFINITION. Decoding and encoding (30_encoding.md). The dispatcher compares the whole opcode byte (R52); the operand
bytes are passed on by position (R47). -/

namespace Sys2Proof

/-- Why three bytes are no instruction. -/
inductive DecodeError where
  /-- The opcode byte is none of the nine (30_encoding.md R53). -/
  | unrecognizedOpcode (opc : Byte)
deriving DecidableEq, Repr

/-- The dispatch table (10_state.md R23) in the order of 30_encoding.md R51: each opcode byte with the instruction it
selects when the operand latch holds `a` and `b`. -/
def dispatchTable (c : Config) (a b : Byte) : List (Byte × Instr) :=
  [(opcLdi, .ldi a b), (opcPrn, .prn a), (opcHlt, .hlt), (c.opcMul, .mul a b), (opcAdd, .add a b),
    (c.opcPush, .push a), (c.opcPop, .pop a), (c.opcCall, .call a), (c.opcRet, .ret)]

/-- The dispatcher's decode of an opcode byte and the two operand bytes behind it (40_engine.md R63, 30_encoding.md R52
and R53). -/
def decode (c : Config) (opc a b : Byte) : Except DecodeError Instr :=
  match (dispatchTable c a b).lookup opc with
  | some i => .ok i
  | none => .error (.unrecognizedOpcode opc)

/-- Decode the instruction at the front of a byte sequence; a byte beyond its end reads as zero, as an unloaded cell
does (70_reset_and_hazards.md R104). -/
def decodeBytes (c : Config) (bytes : List Byte) : Except DecodeError Instr :=
  decode c (bytes.getD 0 0) (bytes.getD 1 0) (bytes.getD 2 0)

/-- The opcode byte of an instruction (30_encoding.md R51). -/
def opcode (c : Config) : Instr → Byte
  | .ldi _ _ => opcLdi
  | .prn _ => opcPrn
  | .hlt => opcHlt
  | .mul _ _ => c.opcMul
  | .add _ _ => opcAdd
  | .push _ => c.opcPush
  | .pop _ => c.opcPop
  | .call _ => c.opcCall
  | .ret => c.opcRet

/-- The operand bytes of an instruction, in order of address (30_encoding.md R45). -/
def operandBytes : Instr → List Byte
  | .ldi a b => [a, b]
  | .prn a => [a]
  | .hlt => []
  | .mul a b => [a, b]
  | .add a b => [a, b]
  | .push a => [a]
  | .pop a => [a]
  | .call a => [a]
  | .ret => []

/-- The bytes of an instruction: the opcode byte, then its 0, 1 or 2 operand bytes (30_encoding.md R45). -/
def encode (c : Config) (i : Instr) : List Byte := opcode c i :: operandBytes i

/-- The operand count an opcode byte carries in its two high bits (30_encoding.md R46). No decode or handler reads it
(R50). -/
def operandCount (opc : Byte) : Nat := opc.toNat / 64

/-- The first three bytes of an instruction given as the number `w` of `nbits` bits, first byte in the low bits; every
bit from `nbits` up is zero. -/
def wordBytes (nbits w : Nat) : List Byte :=
  let v := w % 2 ^ nbits
  [BitVec.ofNat 8 v, BitVec.ofNat 8 (v / 256), BitVec.ofNat 8 (v / 65536)]

/-- The instruction this decoder reads from an opcode-table word. -/
def decodeTableWord (nbits w : Nat) : Option Instr :=
  match decodeBytes hardware (wordBytes nbits w) with
  | .ok i => some i
  | .error _ => none

end Sys2Proof
end

