-- ==== Sys2Proof/Machine/Flags.lean ====
section
/-! DEFINITION. The arithmetic laws of the ALU (41_alu.md R78). No instruction computes or writes a flag (10_state.md
R20, 41_alu.md R77): the carry of a sum and the high byte of a product are discarded and recorded nowhere. -/

namespace Sys2Proof.Machine

/-- The exact sum of two unsigned bytes, modulo 256 (41_alu.md R78). -/
def wrapAdd (v w : Byte) : Byte := BitVec.ofNat 8 (v.toNat + w.toNat)

/-- The exact product of two unsigned bytes, modulo 256 (41_alu.md R78). -/
def wrapMul (v w : Byte) : Byte := BitVec.ofNat 8 (v.toNat * w.toNat)

end Sys2Proof.Machine
end

