-- ==== Sys2Proof/Machine/State.lean ====
section
/-! DEFINITION. The state of the block (10_state.md), what a raised fault records (60_exceptions.md R88), and the state
after reset (70_reset_and_hazards.md R101). -/

namespace Sys2Proof.Machine

/-- The run status (10_state.md R24). -/
inductive Status where
  | running
  | halted
  | error
deriving DecidableEq, Repr

/-- Which check found an index or address out of bounds (60_exceptions.md R88). -/
inductive BoundsKind where
  /-- The fetch window does not lie in memory. -/
  | fetch
  /-- A register operand byte is 8 or more. -/
  | reg
  /-- A stack address is no cell, or the stack pointer would leave `[0, 255]`. -/
  | stack
deriving DecidableEq, Repr

/-- The operation an ALU is asked for, by name (41_alu.md R75, R76). DESIGN CHOICE: an operation outside ADD and MUL is
held as its name (log entry 13, safe). -/
inductive AluOp where
  | add
  | mul
  /-- Any other operation name; no opcode drives it (41_alu.md R76). -/
  | other (name : String)
deriving DecidableEq, Repr

/-- The cause of a raised fault with the detail it records (60_exceptions.md R88). -/
inductive FaultCause where
  /-- Raised by the dispatcher (R90). -/
  | unrecognizedOpcode (opc : Byte)
  /-- Raised by the ALU alone; no opcode reaches it (R91). -/
  | unsupportedAluOperation (op : AluOp)
  /-- Raised by the fetch, by a handler with a register operand, and by PUSH, POP, CALL and RET (R92). -/
  | outOfBounds (kind : BoundsKind) (value : Int)
deriving DecidableEq, Repr

/-- The fault record (10_state.md R25): the cause with its detail, and the address of the faulting instruction. -/
structure FaultRecord where
  cause : FaultCause
  pc : Nat
deriving DecidableEq, Repr

/-- Memory as the cells that do not hold their reset value, in rising order of address (`Memory.wf` in
Sys2Proof/Machine/Ops.lean). -/
abbrev Memory := List Host.Cell

/-- What an address that is not listed reads as: the reset contents, 0 (70_reset_and_hazards.md R101). -/
def Memory.unlisted : Byte := 0#8

/-- The state of the block: the tuple of 10_state.md, and the bit that the load contract needs. -/
structure State where
  /-- The general registers (10_state.md R13); register 7 is `SP` (R15). -/
  x : Vector Byte 8
  /-- The program counter, a natural number (10_state.md R17). -/
  pc : Nat
  /-- The flags register `FL` (10_state.md R20). -/
  fl : Byte
  /-- The memory array (10_state.md R21). -/
  mem : Memory
  /-- The run status (10_state.md R24). -/
  status : Status
  /-- The fault record (10_state.md R25). -/
  fault : Option FaultRecord
  /-- The bytes PRN has emitted, oldest first (10_state.md R26). -/
  out : List Byte
  /-- True from reset until a load is taken or a step runs (70_reset_and_hazards.md R105). DEDUCED: R105 needs this bit
  and the spec names no field for it (log entry 4, safe). -/
  loadOpen : Bool
deriving DecidableEq, Repr

/-- Why a call of `exec` has no meaning at all. A fault of the SPEC is no such thing: it is a next state whose `status` is
ERROR (log entry 1). -/
inductive Fault where
  /-- Raised by CALL alone, in a state whose `pc + 2` does not fit the byte it would store. The fetch check keeps every
  step from it (44_control.md R86), so only a direct call of `exec` meets it. Safe. DESIGN CHOICE (log entry 6). -/
  | returnAddressTooWide
deriving DecidableEq, Repr

/-- Why an instruction is refused. -/
inductive Refusal where
  /-- Raised by an arm of `exec` whose instruction has no meaning yet; no arm does. Safe. -/
  | notModelled (mnemonic : String)
deriving DecidableEq, Repr

/-- The state after reset under given parameters (70_reset_and_hazards.md R101). -/
def State.resetWith (c : Config) : State where
  x := (Vector.replicate 8 0#8).set spIndex c.spInit
  pc := 0
  fl := 0#8
  mem := []
  status := .running
  fault := none
  out := []
  loadOpen := true

/-- The state of this hardware after reset (70_reset_and_hazards.md R101). -/
def State.reset : State := State.resetWith hardware

end Sys2Proof.Machine
end

