-- ==== Sys2Proof/Machine/Ops.lean ====
section
/-! DEFINITION. The named operations over memory, registers and the rest of the state (00_scope.md R8), and raising a
fault (60_exceptions.md R89). There is no return from a fault (R95): only the host's reset leaves ERROR. -/

namespace Sys2Proof.Machine

/-- What a handler and a step answer. -/
abbrev Result := Host.Outcome State Fault Refusal

/-- `MemRead(addr, 1)` (20_memory.md R33). Every caller has checked that the address is valid. -/
def Memory.read : Memory → Nat → Byte
  | [], _ => Memory.unlisted
  | (b, v) :: rest, a => if a = b then v else Memory.read rest a

/-- `MemWrite(addr, 1, v)` (20_memory.md R34), which keeps the canonical form. -/
def Memory.write : Memory → Nat → Byte → Memory
  | [], a, v => if v = Memory.unlisted then [] else [(a, v)]
  | (b, w) :: rest, a, v =>
    if a < b then (if v = Memory.unlisted then (b, w) :: rest else (a, v) :: (b, w) :: rest)
    else if a = b then (if v = Memory.unlisted then rest else (a, v) :: rest)
    else (b, w) :: Memory.write rest a v

/-- Write bytes to consecutive rising addresses (70_reset_and_hazards.md R104). -/
def Memory.writeList : Memory → Nat → List Byte → Memory
  | m, _, [] => m
  | m, a, v :: vs => Memory.writeList (m.write a v) (a + 1) vs

/-- The canonical form: addresses strictly rise, and no cell is listed with what an unlisted one reads as. -/
abbrev Memory.wf (m : Memory) : Prop :=
  List.Pairwise (fun p q : Host.Cell => p.1 < q.1) m ∧ ∀ p ∈ m, p.2 ≠ Memory.unlisted

/-- Every listed cell exists in a memory of `n` cells (20_memory.md R32). -/
abbrev Memory.within (m : Memory) (n : Nat) : Prop := ∀ p ∈ m, p.1 < n

/-- Read general register `i` (00_scope.md R8). -/
def State.reg (s : State) (i : Reg) : Byte := s.x[i]

/-- Write general register `i` (00_scope.md R8). -/
def State.setReg (s : State) (i : Reg) (v : Byte) : State := { s with x := s.x.set i v }

/-- `SP`, an alias of register 7 (00_scope.md R8). -/
def State.sp (s : State) : Byte := s.reg spIndex

/-- `SP_dec` of the stack-pointer controller (10_state.md R16); its callers have checked that `SP` is at least 1. -/
def State.spDec (s : State) : State := s.setReg spIndex (s.sp - 1#8)

/-- `SP_inc` of the stack-pointer controller (10_state.md R16); its callers have checked that `SP` is at most 254. -/
def State.spInc (s : State) : State := s.setReg spIndex (s.sp + 1#8)

/-- Write one memory cell (20_memory.md R34). -/
def State.writeMem (s : State) (a : Nat) (v : Byte) : State := { s with mem := s.mem.write a v }

/-- Advance the program counter by `n` (10_state.md R18); it does not wrap (R19). -/
def State.advance (s : State) (n : Nat) : State := { s with pc := s.pc + n }

/-- Overwrite the program counter (10_state.md R18). -/
def State.jump (s : State) (target : Nat) : State := { s with pc := target }

/-- `emit(v)`: append a byte to the output (10_state.md R26). -/
def State.emit (s : State) (v : Byte) : State := { s with out := s.out ++ [v] }

/-- Enter the clean end of a run (44_control.md R85). -/
def State.halt (s : State) : State := { s with status := .halted }

/-- A load or a step has been taken: no further load until reset (70_reset_and_hazards.md R105). -/
def State.closeLoad (s : State) : State := { s with loadOpen := false }

/-- `raise E(info)`: record the fault and stop, and change nothing else (60_exceptions.md R89). -/
def State.raise (s : State) (cause : FaultCause) : State :=
  { s with status := .error, fault := some { cause := cause, pc := s.pc } }

/-- Go on with the value a check grants, or raise the fault it reports in the state before any write (60_exceptions.md
R89: every handler checks before its first write). -/
def State.check {α : Type} (s : State) (granted : Except FaultCause α) (go : α → Result) : Result :=
  match granted with
  | .ok v => go v
  | .error cause => .next (s.raise cause)

/-- The number of a run status (10_state.md R24). -/
def Status.code : Status → Nat
  | .running => 0
  | .halted => 1
  | .error => 2

/-- The number of a fault cause (60_exceptions.md R88). -/
def FaultCause.code : FaultCause → Nat
  | .unrecognizedOpcode _ => 1
  | .unsupportedAluOperation _ => 2
  | .outOfBounds _ _ => 3

/-- The number of an out-of-bounds kind (60_exceptions.md R88). -/
def BoundsKind.code : BoundsKind → Nat
  | .fetch => 0
  | .reg => 1
  | .stack => 2

end Sys2Proof.Machine
end

