-- ==== Sys2Proof/Machine/Operands.lean ====
section
/-! DEFINITION. What an operand byte and the stack pointer name, and the checks they pass first (30_encoding.md R48,
10_state.md R16, 60_exceptions.md R92). -/

namespace Sys2Proof.Machine

/-- A register operand byte: the whole byte is the index, and 8 or more is out of bounds (30_encoding.md R48). -/
def regOperand (r : Byte) : Except FaultCause Reg :=
  if h : r.toNat < 8 then .ok ⟨r.toNat, h⟩ else .error (.outOfBounds .reg r.toNat)

/-- The cell PUSH and CALL write, at `SP - 1` (43_stack.md R83, 44_control.md R86). -/
def pushSlot (c : Config) (s : State) : Except FaultCause Nat :=
  if s.sp.toNat < 1 ∨ c.memSize < s.sp.toNat then .error (.outOfBounds .stack ((s.sp.toNat : Int) - 1))
  else .ok (s.sp.toNat - 1)

/-- The cell POP and RET read, at `SP` (43_stack.md R84, 44_control.md R87). -/
def popSlot (c : Config) (s : State) : Except FaultCause Nat :=
  if c.memSize ≤ s.sp.toNat then .error (.outOfBounds .stack s.sp.toNat) else .ok s.sp.toNat

/-- The value `SP += 1` is about to increment must leave the result a byte (43_stack.md R84, 44_control.md R87). -/
def incrementable (v : Byte) : Except FaultCause Unit :=
  if 254 < v.toNat then .error (.outOfBounds .stack ((v.toNat : Int) + 1)) else .ok ()

end Sys2Proof.Machine
end

