-- ==== Sys2Proof/Machine/Alu.lean ====
section
/-! DEFINITION. The ALU and its two instructions (41_alu.md). -/

namespace Sys2Proof.Machine

/-- `ALU(op, dest, src)`: write the result into `x[dest]` and nothing else (41_alu.md R75, R77, R78); any other operation
is a fault (R76). -/
def alu (op : AluOp) (dest src : Reg) (s : State) : Except FaultCause State :=
  match op with
  | .add => .ok (s.setReg dest (wrapAdd (s.reg dest) (s.reg src)))
  | .mul => .ok (s.setReg dest (wrapMul (s.reg dest) (s.reg src)))
  | .other name => .error (.unsupportedAluOperation (.other name))

/-- An ALU instruction on two register operands, checked in order `a`, `b` (41_alu.md R79, R80; 60_exceptions.md R93). -/
def aluInstruction (op : AluOp) (a b : Byte) (s : State) : Result :=
  s.check (regOperand a) fun dest =>
    s.check (regOperand b) fun src =>
      s.check (alu op dest src s) fun t => .next (t.advance 3)

/-- ADD (41_alu.md R79). -/
def execAdd (a b : Byte) (s : State) : Result := aluInstruction .add a b s

/-- MUL (41_alu.md R80). -/
def execMul (a b : Byte) (s : State) : Result := aluInstruction .mul a b s

end Sys2Proof.Machine
end

