-- ==== Sys2Proof/Machine/Control.lean ====
section
/-! DEFINITION. Halt and control transfer (44_control.md), under any parameters and on this hardware. -/

namespace Sys2Proof.Machine

/-- HLT (44_control.md R85). -/
def execHlt (s : State) : Result := .next (s.advance 1).halt

/-- CALL (44_control.md R86): the target is read after the `SP` write, so `CALL r7` jumps to the decremented `SP`.
DESIGN CHOICE: where `pc + 2` is no byte, which no step reaches, there is a fault instead of a truncated store (log
entry 6, safe). -/
def callWith (c : Config) (a : Byte) (s : State) : Result :=
  s.check (regOperand a) fun r =>
    s.check (pushSlot c s) fun slot =>
      if 255 < s.pc + 2 then .fault .returnAddressTooWide
      else .next ((s.writeMem slot (BitVec.ofNat 8 (s.pc + 2))).spDec.jump (s.spDec.reg r).toNat)

/-- RET (44_control.md R87). -/
def retWith (c : Config) (s : State) : Result :=
  s.check (popSlot c s) fun slot =>
    s.check (incrementable s.sp) fun _ =>
      .next (s.jump (s.mem.read slot).toNat).spInc

/-- CALL on this hardware. -/
def execCall (a : Byte) (s : State) : Result := callWith hardware a s

/-- RET on this hardware. -/
def execRet (s : State) : Result := retWith hardware s

end Sys2Proof.Machine
end

