-- ==== Sys2Proof/Machine/RegisterIo.lean ====
section
/-! DEFINITION. Register load and output (42_register_io.md). -/

namespace Sys2Proof.Machine

/-- LDI (42_register_io.md R81). -/
def execLdi (a b : Byte) (s : State) : Result :=
  s.check (regOperand a) fun r => .next ((s.setReg r b).advance 3)

/-- PRN (42_register_io.md R82). -/
def execPrn (a : Byte) (s : State) : Result :=
  s.check (regOperand a) fun r => .next ((s.emit (s.reg r)).advance 2)

end Sys2Proof.Machine
end

