-- ==== Sys2Proof/Machine/Stack.lean ====
section
/-! DEFINITION. Stack instructions (43_stack.md), under any parameters and on this hardware. -/

namespace Sys2Proof.Machine

/-- PUSH (43_stack.md R83): the register is read after the decrement, so `PUSH r7` stores the decremented `SP`. -/
def pushWith (c : Config) (a : Byte) (s : State) : Result :=
  s.check (regOperand a) fun r =>
    s.check (pushSlot c s) fun slot =>
      .next ((s.spDec.writeMem slot (s.spDec.reg r)).advance 2)

/-- The value that the `SP += 1` of `POP r` will increment (43_stack.md R84). -/
def popIncremented (r : Reg) (v : Byte) (s : State) : Byte := if r = spIndex then v else s.sp

/-- POP (43_stack.md R84): `SP` is incremented after the register is written, so `POP r7` leaves the popped value plus
one. -/
def popWith (c : Config) (a : Byte) (s : State) : Result :=
  s.check (regOperand a) fun r =>
    s.check (popSlot c s) fun slot =>
      s.check (incrementable (popIncremented r (s.mem.read slot) s)) fun _ =>
        .next ((s.setReg r (s.mem.read slot)).spInc.advance 2)

/-- PUSH on this hardware. -/
def execPush (a : Byte) (s : State) : Result := pushWith hardware a s

/-- POP on this hardware. -/
def execPop (a : Byte) (s : State) : Result := popWith hardware a s

end Sys2Proof.Machine
end

