-- ==== Sys2Proof/Machine/Engine.lean ====
section
/-! DEFINITION. The fetch-decode-execute engine (40_engine.md), under any parameters. -/

namespace Sys2Proof.Machine

/-- The three fetch addresses lie in memory (40_engine.md R61). -/
abbrev State.fetchable (c : Config) (s : State) : Prop := s.pc + 2 < c.memSize

/-- The lowest of `pc`, `pc + 1`, `pc + 2` that is no cell, when one of them is none (40_engine.md R61). -/
def lowestInvalid (c : Config) (pc : Nat) : Nat :=
  if c.memSize ≤ pc then pc else if c.memSize ≤ pc + 1 then pc + 1 else pc + 2

/-- The dispatcher reports an opcode byte it does not know as a fault (40_engine.md R64). -/
def dispatchFault : DecodeError → FaultCause
  | .unrecognizedOpcode opc => .unrecognizedOpcode opc

/-- What the dispatcher selects from the three bytes at `pc` (40_engine.md R62, R63). -/
def State.decodeAtPc (c : Config) (s : State) : Except DecodeError Instr :=
  decode c (s.mem.read s.pc) (s.mem.read (s.pc + 1)) (s.mem.read (s.pc + 2))

/-- Check the fetch window, read the three bytes, dispatch (40_engine.md R61 to R64). -/
def fetch (c : Config) (s : State) : Except FaultCause Instr :=
  if s.fetchable c then (s.decodeAtPc c).mapError dispatchFault
  else .error (.outOfBounds .fetch (lowestInvalid c s.pc))

/-- One engine step (40_engine.md R66) with `run` as the handlers. A step that is not enabled does nothing (R60); one
that is enabled closes the window for a load (70_reset_and_hazards.md R105). -/
def engineStep (c : Config) (run : Instr → State → Result) (s : State) : Result :=
  if s.status = .running then s.closeLoad.check (fetch c s) fun i => run i s.closeLoad
  else .next s

/-- The handlers under any parameters (00_scope.md R6: "every other rule is unchanged"). -/
def handleWith (c : Config) (i : Instr) (s : State) : Result :=
  match i with
  | .ldi a b => execLdi a b s
  | .prn a => execPrn a s
  | .hlt => execHlt s
  | .mul a b => execMul a b s
  | .add a b => execAdd a b s
  | .push a => pushWith c a s
  | .pop a => popWith c a s
  | .call a => callWith c a s
  | .ret => retWith c s

/-- One engine step under any parameters (40_engine.md R66). -/
def stepWith (c : Config) (s : State) : Result := engineStep c (handleWith c) s

end Sys2Proof.Machine
end

