-- ==== Sys2Proof/Machine/Step.lean ====
section
/-! DEFINITION. One step of this hardware (40_engine.md R66). -/

namespace Sys2Proof.Machine

/-- One engine step at this hardware's parameters. -/
def step (s : State) : Host.Outcome State Fault Refusal := engineStep hardware exec s

/-- The state with an opcode-table word's bytes in the fetch window, where the next step of a running block finds them; it
stands for the host's load (70_reset_and_hazards.md R104, log entry 8). Where the window does not lie in memory there is
no place for them. -/
def State.withFetchWord (s : State) (nbits w : Nat) : State :=
  if s.fetchable hardware then { s with mem := s.mem.writeList s.pc (wordBytes nbits w) } else s

end Sys2Proof.Machine
end

