-- ==== Sys2Proof/WellFormed.lean ====
section
/-! DEFINITION. Well-formed instructions: every register operand names one of the eight registers (30_encoding.md R48,
and R57: "`r<n>` or `R<n>`, with `n` from 0 to 7"). An instruction that is not well formed still decodes and runs: its
handler raises `OutOfBounds(REG)` (60_exceptions.md R92). -/

namespace Sys2Proof

/-- The operand bytes that the format names as register indices (30_encoding.md R45; 40_engine.md R73, column "register
operands checked"), in the order they are checked. -/
def Instr.registerOperands : Instr → List Byte
  | .ldi a _ => [a]
  | .prn a => [a]
  | .hlt => []
  | .mul a b => [a, b]
  | .add a b => [a, b]
  | .push a => [a]
  | .pop a => [a]
  | .call a => [a]
  | .ret => []

/-- Every register operand is 0 to 7 (30_encoding.md R48). -/
abbrev Instr.WellFormed (i : Instr) : Prop := ∀ r ∈ i.registerOperands, r.toNat < 8

end Sys2Proof
end

