-- ==== Sys2Proof/Machine/Assembler.lean ====
section
/-! DEFINITION. The assembler syntax (30_encoding.md R57): the mnemonic, one space, the operands separated by commas; each
mnemonic gives exactly one instruction (R58). DESIGN CHOICE: no other white space is accepted, and hexadecimal digits may
be of either case (log entry 12, safe). -/

namespace Sys2Proof.Machine

/-- The value of a digit below `base`. -/
def digit? (base : Nat) (ch : Char) : Option Nat :=
  let u := ch.toUpper.toNat
  let n := if 48 ≤ u ∧ u ≤ 57 then u - 48 else if 65 ≤ u ∧ u ≤ 70 then u - 55 else base
  if n < base then some n else none

/-- Digits after a value already read. -/
def digits? (base : Nat) : Nat → List Char → Option Nat
  | n, [] => some n
  | n, ch :: rest =>
    match digit? base ch with
    | some d => digits? base (n * base + d) rest
    | none => none

/-- A byte, written with at least one digit. -/
def byte? (base : Nat) (cs : List Char) : Option Byte :=
  match cs, digits? base 0 cs with
  | [], _ => none
  | _ :: _, some n => if n < 256 then some (BitVec.ofNat 8 n) else none
  | _ :: _, none => none

/-- "An immediate is a decimal number, or a hex number with `0x`" (30_encoding.md R57). -/
def immediate? (cs : List Char) : Option Byte :=
  match cs with
  | '0' :: 'x' :: hex => byte? 16 hex
  | _ => byte? 10 cs

/-- "A register is written `r<n>` or `R<n>`, with `n` from 0 to 7" (30_encoding.md R57). -/
def register? (cs : List Char) : Option Byte :=
  match cs with
  | [r, n] => if r.toUpper = 'R' then (digit? 8 n).map (BitVec.ofNat 8) else none
  | _ => none

/-- The instruction of a mnemonic in capitals with its operand texts (30_encoding.md R57, the table of forms). -/
def form? (mnemonic : List Char) (operands : List (List Char)) : Option Instr :=
  match operands with
  | [] =>
    if mnemonic = ['H', 'L', 'T'] then some .hlt
    else if mnemonic = ['R', 'E', 'T'] then some .ret
    else none
  | [ra] =>
    (register? ra).bind fun a =>
      if mnemonic = ['P', 'R', 'N'] then some (.prn a)
      else if mnemonic = ['P', 'U', 'S', 'H'] then some (.push a)
      else if mnemonic = ['P', 'O', 'P'] then some (.pop a)
      else if mnemonic = ['C', 'A', 'L', 'L'] then some (.call a)
      else none
  | [ra, second] =>
    (register? ra).bind fun a =>
      if mnemonic = ['L', 'D', 'I'] then (immediate? second).map (.ldi a)
      else if mnemonic = ['M', 'U', 'L'] then (register? second).map (.mul a)
      else if mnemonic = ['A', 'D', 'D'] then (register? second).map (.add a)
      else none
  | _ => none

/-- Split at the commas. -/
def splitCommas : List Char → List (List Char)
  | [] => [[]]
  | ch :: rest =>
    match splitCommas rest with
    | [] => [[ch]]
    | word :: words => if ch = ',' then [] :: word :: words else (ch :: word) :: words

/-- Split at the first space into the mnemonic and the operand texts. -/
def splitLine : List Char → List Char × List (List Char)
  | [] => ([], [])
  | ch :: rest =>
    if ch = ' ' then ([], splitCommas rest)
    else (ch :: (splitLine rest).1, (splitLine rest).2)

/-- One assembler line (30_encoding.md R57); the mnemonic may be of either case. -/
def assembleLine (cs : List Char) : Option Instr :=
  form? ((splitLine cs).1.map Char.toUpper) (splitLine cs).2

/-- The bytes of a program, one instruction a line (30_encoding.md R57, R58). -/
def assemble (c : Config) : List (List Char) → Option (List Byte)
  | [] => some []
  | line :: rest =>
    match assembleLine line, assemble c rest with
    | some i, some bytes => some (encode c i ++ bytes)
    | _, _ => none

/-- A decimal digit. -/
def digitChar (n : Nat) : Char := Char.ofNat (48 + n)

/-- A byte in decimal, without leading zeros. -/
def decimal (v : Byte) : List Char :=
  let n := v.toNat
  if n < 10 then [digitChar n]
  else if n < 100 then [digitChar (n / 10), digitChar (n % 10)]
  else [digitChar (n / 100), digitChar (n / 10 % 10), digitChar (n % 10)]

/-- A register operand as the source's example spells it (30_encoding.md R57). -/
def registerText (r : Byte) : List Char := ['r', digitChar r.toNat]

/-- The assembler line of a well-formed instruction (30_encoding.md R57). -/
def render : Instr → List Char
  | .ldi a b => ['L', 'D', 'I', ' '] ++ registerText a ++ [','] ++ decimal b
  | .prn a => ['P', 'R', 'N', ' '] ++ registerText a
  | .hlt => ['H', 'L', 'T']
  | .mul a b => ['M', 'U', 'L', ' '] ++ registerText a ++ [','] ++ registerText b
  | .add a b => ['A', 'D', 'D', ' '] ++ registerText a ++ [','] ++ registerText b
  | .push a => ['P', 'U', 'S', 'H', ' '] ++ registerText a
  | .pop a => ['P', 'O', 'P', ' '] ++ registerText a
  | .call a => ['C', 'A', 'L', 'L', ' '] ++ registerText a
  | .ret => ['R', 'E', 'T']

end Sys2Proof.Machine
end

