-- ==== Sys2Proof/Machine/Boot.lean ====
section
/-! DEFINITION. What the host may do besides asking for a step (40_engine.md R59, 70_reset_and_hazards.md): reset, load
and read-back. -/

namespace Sys2Proof.Machine

/-- The host's `reset`, in any state: all of it is discarded (70_reset_and_hazards.md R103). -/
def hostReset (c : Config) (_ : State) : State := State.resetWith c

/-- What the host learns of a `load` (70_reset_and_hazards.md R105). -/
inductive LoadOutcome where
  /-- The image is in memory. -/
  | accepted (s : State)
  /-- Nothing has changed. -/
  | refused
deriving DecidableEq, Repr

/-- The host's `load(bytes)` (70_reset_and_hazards.md R104, R105). -/
def load (c : Config) (bytes : List Byte) (s : State) : LoadOutcome :=
  if s.loadOpen = false ∨ c.memSize < bytes.length then .refused
  else .accepted { s.closeLoad with mem := s.mem.writeList 0 bytes }

/-- What the host may read of a block that has stopped (40_engine.md R59). -/
structure ReadBack where
  x : Vector Byte 8
  pc : Nat
  mem : Memory
deriving DecidableEq, Repr

/-- State read-back is legal "only when `status != RUNNING`" (40_engine.md R59). -/
def State.readBack (s : State) : Option ReadBack :=
  if s.status = .running then none else some { x := s.x, pc := s.pc, mem := s.mem }

end Sys2Proof.Machine
end

