-- ==== Sys2Proof/Safety.lean ====
section
/-! DEFINITION. How a run ends (40_engine.md R68, R69), which states a host can bring about (70_reset_and_hazards.md
R106, R107), and the invariants of 10_state.md R30. -/

namespace Sys2Proof.Machine

/-- The end of a run (40_engine.md R69). -/
abbrev State.ended (s : State) : Prop := s.status ≠ .running

/-- The clean end: a HLT ran (40_engine.md R69). -/
abbrev State.cleanEnd (s : State) : Prop := s.status = .halted

/-- The error end: a fault was raised (40_engine.md R69). -/
abbrev State.errorEnd (s : State) : Prop := s.status = .error

/-- The states a host can bring about: reset, then its loads and steps in any order (40_engine.md R59,
70_reset_and_hazards.md R106). A refused load changes nothing (R105), and a reset starts anew (R103). -/
inductive Reachable (c : Config) : State → Prop where
  | reset : Reachable c (State.resetWith c)
  | load {s t : State} (bytes : List Byte) :
      Reachable c s → Machine.load c bytes s = .accepted t → Reachable c t
  | step {s t : State} : Reachable c s → stepWith c s = .next t → Reachable c t

/-- 10_state.md R30, items 3 to 5 (items 1 and 2, that registers and cells are bytes, hold by their type), with the
canonical form of memory, whose listed cells all exist (20_memory.md R32). -/
abbrev State.Inv (c : Config) (s : State) : Prop :=
  s.pc ≤ 256 ∧ (s.status = .error ↔ s.fault ≠ none) ∧ s.fl = 0#8 ∧ s.mem.wf ∧ s.mem.within c.memSize

end Sys2Proof.Machine
end

