-- ==== Sys2Proof/Certificates/Slice0/Obligations.lean ====
section
/-! DEFINITION. The statements for the provers. Where a docstring says that a clause is a decision of the spec (D<n> of
spec/92_eei_decisions.md), the spec marks it as its own choice; where it says "log entry <n>", the model does. -/

open Sys2Proof Sys2Proof.Machine

/-! ### The engine -/

/-- 40_engine.md R62, R63, R65, R66. Closing the load window is the model's bookkeeping for R105 (log entry 4). -/
def Obligations.StepRunsDecodedInstruction : Prop :=
  ∀ (s : State) (i : Instr), s.status = .running → s.pc + 2 ≤ 254 →
    decode hardware (s.mem.read s.pc) (s.mem.read (s.pc + 1)) (s.mem.read (s.pc + 2)) = .ok i →
    step s = exec i { s with loadOpen := false }

/-- 40_engine.md R61; that the fetch faults instead of reading past the end is decision D6. The clause about `loadOpen` is
the model's own bookkeeping for 70_reset_and_hazards.md R105 (log entry 4, DEDUCED): R89's raise does not write it. -/
def Obligations.FetchOutsideWindowFaults : Prop :=
  ∀ s : State, s.status = .running → 254 < s.pc + 2 →
    ∃ n : Nat, (n = s.pc ∨ n = s.pc + 1 ∨ n = s.pc + 2) ∧ 255 ≤ n ∧
      (∀ m : Nat, m = s.pc ∨ m = s.pc + 1 ∨ m = s.pc + 2 → 255 ≤ m → n ≤ m) ∧
      step s = .next { s with
        status := .error, fault := some { cause := .outOfBounds .fetch n, pc := s.pc }, loadOpen := false }

/-- 40_engine.md R64, 30_encoding.md R53; that `pc` stays is decision D22, and five of the nine bytes are from general
knowledge (D10, log entry 3). The clause about `loadOpen` is the model's own bookkeeping for 70_reset_and_hazards.md R105
(log entry 4, DEDUCED): R89's raise does not write it. -/
def Obligations.UnrecognizedOpcodeStops : Prop :=
  ∀ s : State, s.status = .running → s.pc + 2 ≤ 254 →
    s.mem.read s.pc ∉ [0x82#8, 0x47#8, 0x01#8, 0xA2#8, 0xA0#8, 0x45#8, 0x46#8, 0x50#8, 0x11#8] →
    step s = .next { s with
      status := .error, fault := some { cause := .unrecognizedOpcode (s.mem.read s.pc), pc := s.pc },
      loadOpen := false }

/-- 40_engine.md R60 (decision D8): a step that is not enabled changes nothing. -/
def Obligations.DisabledStepDoesNothing : Prop :=
  ∀ s : State, s.status ≠ .running → step s = .next s

/-- 40_engine.md R70 and 60_exceptions.md R95: HALTED and ERROR are terminal, however many steps are asked for. -/
def Obligations.StoppedRunStaysAsItIs : Prop :=
  ∀ (s : State) (n : Nat), s.status ≠ .running → core.run n s = .next s

/-- 40_engine.md R74: under any legal parameters a step always completes; no state, reachable or not, makes it stop
without an answer. -/
def Obligations.EveryStepCompletes : Prop :=
  ∀ c : Config, c.Legal → ∀ s : State, ∃ t : State, stepWith c s = .next t

/-- 60_exceptions.md R89 (precise faults, decision D7): a step that ends in ERROR has written `status` and `fault` and
nothing else but the load bit, which is the model's own bookkeeping for 70_reset_and_hazards.md R105 (log entry 4,
DEDUCED). -/
def Obligations.FaultingStepIsPrecise : Prop :=
  ∀ s t : State, s.status = .running → step s = .next t → t.status = .error →
    ∃ cause : FaultCause, t = { s with
      status := .error, fault := some { cause := cause, pc := s.pc }, loadOpen := false }

/-- 60_exceptions.md R89: the shared operation that raises a fault. -/
def Obligations.RaiseWritesOnlyStatusAndFault : Prop :=
  ∀ (s : State) (cause : FaultCause),
    s.raise cause = { s with status := .error, fault := some { cause := cause, pc := s.pc } }

/-- 00_scope.md R6: the step of this hardware is the parametrised step at the default of every parameter. -/
def Obligations.StepIsParametrisedStep : Prop := step = stepWith hardware

/-- 00_scope.md R6: the defaults, and that they are legal. -/
def Obligations.HardwareParameters : Prop :=
  hardware.memSize = 255 ∧ hardware.spInit = 244#8 ∧ hardware.opcMul = 0xA2#8 ∧ hardware.opcPush = 0x45#8 ∧
    hardware.opcPop = 0x46#8 ∧ hardware.opcCall = 0x50#8 ∧ hardware.opcRet = 0x11#8 ∧ hardware.Legal

/-! ### Encoding -/

/-- 30_encoding.md R52, R53 with the bytes of R51, five of which are from general knowledge (D10, log entry 3): the
opcode byte alone selects the instruction. -/
def Obligations.DispatchByWholeOpcodeByte : Prop :=
  ∀ opc a b : Byte,
    (∀ i : Instr, decode hardware opc a b = .ok i ↔
      (opc = 0x82#8 ∧ i = .ldi a b) ∨ (opc = 0x47#8 ∧ i = .prn a) ∨ (opc = 0x01#8 ∧ i = .hlt) ∨
      (opc = 0xA2#8 ∧ i = .mul a b) ∨ (opc = 0xA0#8 ∧ i = .add a b) ∨ (opc = 0x45#8 ∧ i = .push a) ∨
      (opc = 0x46#8 ∧ i = .pop a) ∨ (opc = 0x50#8 ∧ i = .call a) ∨ (opc = 0x11#8 ∧ i = .ret)) ∧
    (opc ∉ [0x82#8, 0x47#8, 0x01#8, 0xA2#8, 0xA0#8, 0x45#8, 0x46#8, 0x50#8, 0x11#8] →
      decode hardware opc a b = .error (.unrecognizedOpcode opc))

/-- 30_encoding.md R45, R48, R49, R55: under any legal parameters an encoded instruction decodes to itself, with every
operand byte at every value, whatever bytes stand behind it. -/
def Obligations.DecodeInvertsEncode : Prop :=
  ∀ c : Config, c.Legal → ∀ (i : Instr) (rest : List Byte), decodeBytes c (encode c i ++ rest) = .ok i

/-- 30_encoding.md R45: under any parameters the bytes a decoded instruction is encoded as are those it was decoded
from. -/
def Obligations.EncodeInvertsDecode : Prop :=
  ∀ (c : Config) (opc a b : Byte) (i : Instr), decode c opc a b = .ok i →
    ∃ unused : List Byte, [opc, a, b] = encode c i ++ unused

/-- 30_encoding.md R57: the words of the table of forms, with the bytes of R51 (log entry 3). -/
def Obligations.WordsDecodeAsSpelt : Prop :=
  decodeBytes hardware [0x82#8, 0#8, 8#8] = .ok (.ldi 0#8 8#8) ∧
    decodeBytes hardware [0xA0#8, 0#8, 1#8] = .ok (.add 0#8 1#8) ∧
    decodeBytes hardware [0xA2#8, 7#8, 0#8] = .ok (.mul 7#8 0#8) ∧
    decodeBytes hardware [0x47#8, 0#8] = .ok (.prn 0#8) ∧
    decodeBytes hardware [0x45#8, 7#8] = .ok (.push 7#8) ∧
    decodeBytes hardware [0x50#8, 1#8] = .ok (.call 1#8) ∧
    decodeBytes hardware [0x01#8] = .ok .hlt ∧ decodeBytes hardware [0x11#8] = .ok .ret

/-- 30_encoding.md R50, 10_state.md R18: every handler but CALL and RET advances `pc` by the length of its encoding,
unless it raised a fault. -/
def Obligations.PcAdvancesByEncodedLength : Prop :=
  ∀ (i : Instr) (s t : State), (∀ a, i ≠ .call a) → i ≠ .ret → s.status ≠ .error → exec i s = .next t →
    t.status ≠ .error → t.pc = s.pc + (encode hardware i).length

/-- 30_encoding.md R57 (spelling, decision D27): the assembler line of every well-formed instruction assembles to it. -/
def Obligations.AssemblerReadsRenderedLine : Prop :=
  ∀ i : Instr, i.WellFormed → assembleLine (render i) = some i

/-- 30_encoding.md R57: no assembler line names a register above 7. -/
def Obligations.AssemblerGivesWellFormedInstructions : Prop :=
  ∀ (cs : List Char) (i : Instr), assembleLine cs = some i → i.WellFormed

/-! ### The instructions -/

/-- 42_register_io.md R81, LDI: encoding, the register fault, the effect; the fetch fault comes first. -/
def Obligations.LdiLoadsImmediate : Prop :=
  ∀ (a b : Byte) (s : State),
    encode hardware (.ldi a b) = [0x82#8, a, b] ∧
    (254 < s.pc + 2 → ∃ n : Int, fetch hardware s = .error (.outOfBounds .fetch n)) ∧
    (8 ≤ a.toNat → exec (.ldi a b) s = .next (s.raise (.outOfBounds .reg a.toNat))) ∧
    ∀ r : Reg, a.toNat = r.val →
      exec (.ldi a b) s = .next { s with x := s.x.set r b, pc := s.pc + 3 }

/-- 42_register_io.md R82, PRN: encoding, the register fault, the effect; the fetch fault comes first. -/
def Obligations.PrnEmitsRegister : Prop :=
  ∀ (a : Byte) (s : State),
    encode hardware (.prn a) = [0x47#8, a] ∧
    (254 < s.pc + 2 → ∃ n : Int, fetch hardware s = .error (.outOfBounds .fetch n)) ∧
    (8 ≤ a.toNat → exec (.prn a) s = .next (s.raise (.outOfBounds .reg a.toNat))) ∧
    ∀ r : Reg, a.toNat = r.val →
      exec (.prn a) s = .next { s with out := s.out ++ [s.reg r], pc := s.pc + 2 }

/-- 44_control.md R85, HLT; that the stop is a status and no process exit is decision D9. -/
def Obligations.HltHalts : Prop :=
  ∀ s : State, encode hardware .hlt = [0x01#8] ∧ exec .hlt s = .next { s with pc := s.pc + 1, status := .halted }

/-- 41_alu.md R79, ADD: encoding, the register faults in order, the exact sum modulo 256; the fetch fault comes first. -/
def Obligations.AddWritesSumModulo256 : Prop :=
  ∀ (a b : Byte) (s : State),
    encode hardware (.add a b) = [0xA0#8, a, b] ∧
    (254 < s.pc + 2 → ∃ n : Int, fetch hardware s = .error (.outOfBounds .fetch n)) ∧
    (8 ≤ a.toNat → exec (.add a b) s = .next (s.raise (.outOfBounds .reg a.toNat))) ∧
    (a.toNat < 8 → 8 ≤ b.toNat → exec (.add a b) s = .next (s.raise (.outOfBounds .reg b.toNat))) ∧
    ∀ d r : Reg, a.toNat = d.val → b.toNat = r.val →
      exec (.add a b) s = .next { s with
        x := s.x.set d (BitVec.ofNat 8 (((s.reg d).toNat + (s.reg r).toNat) % 256)), pc := s.pc + 3 }

/-- 41_alu.md R80, MUL: encoding (the byte is from general knowledge: D10, log entry 3), the register faults in order,
the exact product modulo 256. -/
def Obligations.MulWritesProductModulo256 : Prop :=
  ∀ (a b : Byte) (s : State),
    encode hardware (.mul a b) = [0xA2#8, a, b] ∧
    (8 ≤ a.toNat → exec (.mul a b) s = .next (s.raise (.outOfBounds .reg a.toNat))) ∧
    (a.toNat < 8 → 8 ≤ b.toNat → exec (.mul a b) s = .next (s.raise (.outOfBounds .reg b.toNat))) ∧
    ∀ d r : Reg, a.toNat = d.val → b.toNat = r.val →
      exec (.mul a b) s = .next { s with
        x := s.x.set d (BitVec.ofNat 8 (((s.reg d).toNat * (s.reg r).toNat) % 256)), pc := s.pc + 3 }

/-- 43_stack.md R83, PUSH. Decisions of the spec: the stack fault (D5), checks before writes (D7), the register read
after the decrement (D25). -/
def Obligations.PushStoresBelowStackPointer : Prop :=
  ∀ (a : Byte) (s : State),
    (8 ≤ a.toNat → exec (.push a) s = .next (s.raise (.outOfBounds .reg a.toNat))) ∧
    ∀ r : Reg, a.toNat = r.val →
      (s.sp = 0#8 → exec (.push a) s = .next (s.raise (.outOfBounds .stack (-1)))) ∧
      (s.sp ≠ 0#8 → exec (.push a) s = .next { s with
        x := s.x.set spIndex (s.sp - 1#8),
        mem := s.mem.write (s.sp.toNat - 1) (if r = spIndex then s.sp - 1#8 else s.reg r),
        pc := s.pc + 2 })

/-- 43_stack.md R84, POP. Decisions of the spec: the stack faults (D5), checks before writes (D7), the increment after
the register write (D25). -/
def Obligations.PopLoadsFromStackPointer : Prop :=
  ∀ (a : Byte) (s : State),
    (8 ≤ a.toNat → exec (.pop a) s = .next (s.raise (.outOfBounds .reg a.toNat))) ∧
    ∀ r : Reg, a.toNat = r.val →
      (s.sp = 255#8 → exec (.pop a) s = .next (s.raise (.outOfBounds .stack 255))) ∧
      (s.sp ≠ 255#8 → r = spIndex → s.mem.read s.sp.toNat = 255#8 →
        exec (.pop a) s = .next (s.raise (.outOfBounds .stack 256))) ∧
      (s.sp ≠ 255#8 → r = spIndex → s.mem.read s.sp.toNat ≠ 255#8 →
        exec (.pop a) s = .next { s with
          x := s.x.set spIndex (s.mem.read s.sp.toNat + 1#8), pc := s.pc + 2 }) ∧
      (s.sp ≠ 255#8 → r ≠ spIndex →
        exec (.pop a) s = .next { s with
          x := (s.x.set r (s.mem.read s.sp.toNat)).set spIndex (s.sp + 1#8), pc := s.pc + 2 })

/-- 44_control.md R86, CALL. Decisions of the spec: the stack fault (D5), checks before writes (D7), the target read after
the `SP` write (D25), no check of the target (D24). The stop where the return address is no byte is the model's (log
entry 6): no step reaches it. -/
def Obligations.CallPushesReturnAddressAndJumps : Prop :=
  ∀ (a : Byte) (s : State),
    (8 ≤ a.toNat → exec (.call a) s = .next (s.raise (.outOfBounds .reg a.toNat))) ∧
    ∀ r : Reg, a.toNat = r.val →
      (s.sp = 0#8 → exec (.call a) s = .next (s.raise (.outOfBounds .stack (-1)))) ∧
      (s.sp ≠ 0#8 → s.pc + 2 ≤ 255 → exec (.call a) s = .next { s with
        x := s.x.set spIndex (s.sp - 1#8),
        mem := s.mem.write (s.sp.toNat - 1) (BitVec.ofNat 8 (s.pc + 2)),
        pc := (if r = spIndex then s.sp - 1#8 else s.reg r).toNat }) ∧
      (s.sp ≠ 0#8 → 255 < s.pc + 2 → exec (.call a) s = .fault .returnAddressTooWide)

/-- 44_control.md R87, RET. Decisions of the spec: the stack fault (D5), no check of the target (D24). -/
def Obligations.RetPopsReturnAddress : Prop :=
  ∀ s : State,
    (s.sp = 255#8 → exec .ret s = .next (s.raise (.outOfBounds .stack 255))) ∧
    (s.sp ≠ 255#8 → exec .ret s = .next { s with
      x := s.x.set spIndex (s.sp + 1#8), pc := (s.mem.read s.sp.toNat).toNat })

/-- 10_state.md R16, 60_exceptions.md R92 (decision D5): the stack bounds under any legal memory size, with the
increment bound that matters at 256 cells. -/
def Obligations.StackBoundsUnderAnyMemorySize : Prop :=
  ∀ (c : Config) (a : Byte) (r : Reg) (s : State), c.Legal → a.toNat = r.val →
    (s.sp.toNat = 0 ∨ c.memSize < s.sp.toNat →
      pushWith c a s = .next (s.raise (.outOfBounds .stack ((s.sp.toNat : Int) - 1))) ∧
      callWith c a s = .next (s.raise (.outOfBounds .stack ((s.sp.toNat : Int) - 1)))) ∧
    (c.memSize ≤ s.sp.toNat →
      popWith c a s = .next (s.raise (.outOfBounds .stack s.sp.toNat)) ∧
      retWith c s = .next (s.raise (.outOfBounds .stack s.sp.toNat))) ∧
    (c.memSize = 256 → s.sp.toNat = 255 →
      retWith c s = .next (s.raise (.outOfBounds .stack 256)) ∧
      (r ≠ spIndex → popWith c a s = .next (s.raise (.outOfBounds .stack 256))))

/-- 30_encoding.md R48 (decision D4), 60_exceptions.md R93: the first register operand of 8 or more, in order, is the
fault of every handler. -/
def Obligations.FirstBadRegisterOperandFaults : Prop :=
  ∀ (i : Instr) (s : State) (r : Byte), i.registerOperands.find? (fun q => decide (8 ≤ q.toNat)) = some r →
    exec i s = .next (s.raise (.outOfBounds .reg r.toNat))

/-- 30_encoding.md R55: a well-formed instruction raises no register fault. -/
def Obligations.WellFormedRaisesNoRegisterFault : Prop :=
  ∀ (i : Instr) (s t : State), i.WellFormed → s.fault = none → exec i s = .next t →
    ∀ (v : Int) (p : Nat), t.fault ≠ some { cause := .outOfBounds .reg v, pc := p }

/-- 41_alu.md R76: the ALU alone raises a fault for any other operation. -/
def Obligations.AluRejectsOtherOperations : Prop :=
  ∀ (name : String) (d r : Reg) (s : State),
    alu (.other name) d r s = .error (.unsupportedAluOperation (.other name))

/-- 60_exceptions.md R91, 41_alu.md R76: no step records the ALU's fault. -/
def Obligations.NoStepRaisesUnsupportedAlu : Prop :=
  ∀ s t : State, s.fault = none → step s = .next t →
    ∀ (op : AluOp) (p : Nat), t.fault ≠ some { cause := .unsupportedAluOperation op, pc := p }

/-- 41_alu.md R77: the ALU writes the destination register and nothing else. -/
def Obligations.AluWritesOnlyDestination : Prop :=
  ∀ (op : AluOp) (d r : Reg) (s t : State), alu op d r s = .ok t →
    (∀ j : Reg, j ≠ d → t.reg j = s.reg j) ∧ t.pc = s.pc ∧ t.fl = s.fl ∧ t.mem = s.mem ∧
      t.status = s.status ∧ t.fault = s.fault ∧ t.out = s.out ∧ t.loadOpen = s.loadOpen

/-- 41_alu.md R78 (wrapping, decision D3): the results as numbers. -/
def Obligations.AluResultsAreExactModulo256 : Prop :=
  ∀ (d r : Reg) (s : State),
    (∃ t : State, alu .add d r s = .ok t ∧ (t.reg d).toNat = ((s.reg d).toNat + (s.reg r).toNat) % 256) ∧
    (∃ t : State, alu .mul d r s = .ok t ∧ (t.reg d).toNat = ((s.reg d).toNat * (s.reg r).toNat) % 256)

/-! ### Frames -/

/-- 10_state.md R14, 41_alu.md R77, 42_register_io.md R81: LDI, ADD and MUL change their destination register and `pc`. -/
def Obligations.RegisterWriteFrame : Prop :=
  ∀ (i : Instr) (a : Byte), (∃ b, i = .ldi a b ∨ i = .add a b ∨ i = .mul a b) →
    ∀ s t : State, exec i s = .next t →
      (∀ j : Reg, j.val ≠ a.toNat → t.reg j = s.reg j) ∧ t.fl = s.fl ∧ t.out = s.out ∧ t.loadOpen = s.loadOpen ∧
      (∀ n : Nat, t.mem.read n = s.mem.read n) ∧
      (i.WellFormed → t.status = s.status ∧ t.fault = s.fault)

/-- 42_register_io.md R82: PRN changes the output and `pc`. -/
def Obligations.PrnFrame : Prop :=
  ∀ (a : Byte) (s t : State), exec (.prn a) s = .next t →
    (∀ j : Reg, t.reg j = s.reg j) ∧ t.fl = s.fl ∧ t.loadOpen = s.loadOpen ∧
    (∀ n : Nat, t.mem.read n = s.mem.read n) ∧
    (a.toNat < 8 → t.status = s.status ∧ t.fault = s.fault)

/-- 44_control.md R85: HLT changes `pc` and `status`. -/
def Obligations.HltFrame : Prop :=
  ∀ s t : State, exec .hlt s = .next t →
    (∀ j : Reg, t.reg j = s.reg j) ∧ t.fl = s.fl ∧ t.fault = s.fault ∧ t.out = s.out ∧ t.loadOpen = s.loadOpen ∧
    ∀ n : Nat, t.mem.read n = s.mem.read n

/-- 10_state.md R14, 20_memory.md R34, R35: PUSH and CALL change `SP`, `pc` and the one cell `pushSlot` names. -/
def Obligations.StackStoreFrame : Prop :=
  ∀ (i : Instr) (a : Byte), (i = .push a ∨ i = .call a) →
    ∀ s t : State, exec i s = .next t →
      (∀ j : Reg, j ≠ spIndex → t.reg j = s.reg j) ∧ t.fl = s.fl ∧ t.out = s.out ∧ t.loadOpen = s.loadOpen ∧
      (∀ slot : Nat, pushSlot hardware s = .ok slot → ∀ n : Nat, n ≠ slot → t.mem.read n = s.mem.read n) ∧
      (∀ e : FaultCause, pushSlot hardware s = .error e → ∀ n : Nat, t.mem.read n = s.mem.read n) ∧
      (a.toNat < 8 → (∃ slot, pushSlot hardware s = .ok slot) → t.status = s.status ∧ t.fault = s.fault)

/-- 10_state.md R14, 20_memory.md R35: POP changes its register, `SP` and `pc`; RET changes `SP` and `pc`; neither
stores. -/
def Obligations.StackLoadFrame : Prop :=
  (∀ (a : Byte) (s t : State), exec (.pop a) s = .next t →
    (∀ j : Reg, j ≠ spIndex → j.val ≠ a.toNat → t.reg j = s.reg j) ∧ t.fl = s.fl ∧ t.out = s.out ∧
    t.loadOpen = s.loadOpen ∧ (∀ n : Nat, t.mem.read n = s.mem.read n) ∧
    (a.toNat < 8 → s.sp ≠ 255#8 → (a.toNat = 7 → s.mem.read s.sp.toNat ≠ 255#8) →
      t.status = s.status ∧ t.fault = s.fault)) ∧
  (∀ s t : State, exec .ret s = .next t →
    (∀ j : Reg, j ≠ spIndex → t.reg j = s.reg j) ∧ t.fl = s.fl ∧ t.out = s.out ∧ t.loadOpen = s.loadOpen ∧
    (∀ n : Nat, t.mem.read n = s.mem.read n) ∧
    (s.sp ≠ 255#8 → t.status = s.status ∧ t.fault = s.fault))

/-! ### The stack -/

/-- 10_state.md R16: where no fault is raised, PUSH and CALL lower `SP` by one and RET raises it by one, as numbers: the
controller never wraps. That the bounds fault is decision D5; that `POP r7` increments the popped byte is decision D25
(log entry 10). -/
def Obligations.StackPointerNeverWraps : Prop :=
  ∀ (i : Instr) (s t : State), s.status = .running → exec i s = .next t → t.status = .running →
    (∀ a : Byte, i = .push a ∨ i = .call a → t.sp.toNat + 1 = s.sp.toNat) ∧
    (i = .ret → t.sp.toNat = s.sp.toNat + 1) ∧
    (∀ a : Byte, i = .pop a → a.toNat ≠ 7 → t.sp.toNat = s.sp.toNat + 1) ∧
    (∀ a : Byte, i = .pop a → a.toNat = 7 → t.sp.toNat = (s.mem.read s.sp.toNat).toNat + 1)

/-- 43_stack.md R83, R84 and the source's property T3: PUSH then POP of one register leaves every register as it was; that
`r7` is included rests on the order of decision D25 (log entry 10). -/
def Obligations.PushThenPopRestoresRegisters : Prop :=
  ∀ (a : Byte) (s : State), a.toNat < 8 → s.sp ≠ 0#8 → s.mem.wf →
    ∃ t u : State, exec (.push a) s = .next t ∧ exec (.pop a) t = .next u ∧ u.x = s.x ∧ u.pc = s.pc + 4

/-- 44_control.md R87 and the source's property T4: CALL goes to the address in its register (`CALL r7` to the decremented
`SP`, decision D25, log entry 10), and a RET right after it comes back behind the CALL with every register as it was. -/
def Obligations.CallThenRetComesBack : Prop :=
  ∀ (a : Byte) (r : Reg) (s : State), a.toNat = r.val → s.sp ≠ 0#8 → s.pc + 2 ≤ 254 → s.mem.wf →
    ∃ t u : State, exec (.call a) s = .next t ∧ t.pc = (if r = spIndex then s.sp - 1#8 else s.reg r).toNat ∧
      exec .ret t = .next u ∧ u.pc = s.pc + 2 ∧ u.x = s.x

/-- 42_register_io.md R81, R82 and the source's property T1: LDI then PRN emits the immediate and advances `pc` by 5. -/
def Obligations.LdiThenPrnEmitsImmediate : Prop :=
  ∀ (a v : Byte) (s : State), a.toNat < 8 →
    ∃ t u : State, exec (.ldi a v) s = .next t ∧ exec (.prn a) t = .next u ∧ u.out = s.out ++ [v] ∧ u.pc = s.pc + 5

/-- 20_memory.md R34, R43, 70_reset_and_hazards.md R109: the byte a PUSH stored (43_stack.md R83; for `r7` the decremented
`SP`, decision D25, log entry 10) is the byte every later read finds, the next fetch among them, and no other byte has
changed. -/
def Obligations.LaterReadsSeeThePush : Prop :=
  ∀ (a : Byte) (r : Reg) (s : State), a.toNat = r.val → s.sp ≠ 0#8 → s.mem.wf →
    ∃ t : State, exec (.push a) s = .next t ∧ ∀ n : Nat, t.mem.read n =
      if n = s.sp.toNat - 1 then (if r = spIndex then s.sp - 1#8 else s.reg r) else s.mem.read n

/-- 70_reset_and_hazards.md R109, item 2, and 10_state.md R28: a PUSH that overwrites its own operand byte uses the
operand it fetched. The value stored and `pc + 2` are 43_stack.md R83's; that `r7` stores the decremented `SP` is decision
D25 (log entry 10). PUSH's opcode byte is from general knowledge (D10, log entry 3). -/
def Obligations.PushOverItsOwnOperand : Prop :=
  ∀ (s : State) (r : Reg), s.status = .running → s.pc + 2 ≤ 254 → s.mem.wf →
    s.mem.read s.pc = 0x45#8 → (s.mem.read (s.pc + 1)).toNat = r.val → s.sp.toNat = s.pc + 2 →
    ∃ t : State, step s = .next t ∧ t.mem.read (s.pc + 1) = (if r = spIndex then s.sp - 1#8 else s.reg r) ∧
      t.pc = s.pc + 2 ∧ t.status = .running

/-! ### The whole machine -/

/-- 10_state.md R30: every step keeps the invariants, from every state that has them. -/
def Obligations.StepKeepsInvariant : Prop :=
  ∀ s t : State, s.Inv hardware → step s = .next t → t.Inv hardware

/-- 10_state.md R30: the reset state has the invariants. -/
def Obligations.ResetMeetsInvariant : Prop := State.reset.Inv hardware

/-- 10_state.md R30: under any legal parameters, every state a host can bring about by reset, loads and steps has the
invariants. -/
def Obligations.ReachableStatesMeetInvariant : Prop :=
  ∀ c : Config, c.Legal → ∀ s : State, Reachable c s → s.Inv c

/-- 10_state.md R30 (marked derived): under any legal parameters the reset state has the invariants, every step keeps them
from every state that has them, reachable or not, and so does every load the host's contract accepts
(70_reset_and_hazards.md R104). -/
def Obligations.InvariantUnderAnyLegalParameters : Prop :=
  ∀ c : Config, c.Legal →
    (State.resetWith c).Inv c ∧
    (∀ s t : State, s.Inv c → stepWith c s = .next t → t.Inv c) ∧
    (∀ (s t : State) (bytes : List Byte), s.Inv c → load c bytes s = .accepted t → t.Inv c)

/-- 20_memory.md R35, 10_state.md R22: no instruction but PUSH and CALL writes memory. -/
def Obligations.OnlyPushAndCallWriteMemory : Prop :=
  ∀ (i : Instr) (s t : State), (∀ a, i ≠ .push a) → (∀ a, i ≠ .call a) → exec i s = .next t → t.mem = s.mem

/-- 10_state.md R20: no step writes the flags register. -/
def Obligations.NoStepWritesFlags : Prop :=
  ∀ s t : State, step s = .next t → t.fl = s.fl

/-- 10_state.md R26, 40_engine.md R71: a step leaves the output as it was, or it ran a PRN, which appended the register it
names. -/
def Obligations.OutputGrowsOnlyByPrn : Prop :=
  ∀ s t : State, step s = .next t →
    t.out = s.out ∨
      ∃ (a : Byte) (r : Reg), s.status = .running ∧ s.pc + 2 ≤ 254 ∧
        decode hardware (s.mem.read s.pc) (s.mem.read (s.pc + 1)) (s.mem.read (s.pc + 2)) = .ok (.prn a) ∧
        a.toNat = r.val ∧ t.out = s.out ++ [s.reg r]

/-- 10_state.md R24, 40_engine.md R69: only a HLT brings a running block to the clean end, and it records no fault. -/
def Obligations.OnlyHltHalts : Prop :=
  ∀ s t : State, s.status = .running → step s = .next t → t.status = .halted →
    s.pc + 2 ≤ 254 ∧
      decode hardware (s.mem.read s.pc) (s.mem.read (s.pc + 1)) (s.mem.read (s.pc + 2)) = .ok .hlt ∧
      t.fault = s.fault ∧ t.pc = s.pc + 1

/-! ### The host's operations -/

/-- 70_reset_and_hazards.md R101, with FL (D11) and status (D21) as the spec decides, and the load bit as the model does
(log entry 4); and R103, reset discards whatever state there was. -/
def Obligations.ResetState : Prop :=
  (∀ r : Reg, State.reset.reg r = if r = spIndex then 0xF4#8 else 0#8) ∧ State.reset.pc = 0 ∧
    State.reset.fl = 0#8 ∧ (∀ n : Nat, State.reset.mem.read n = 0#8) ∧ State.reset.status = .running ∧
    State.reset.fault = none ∧ State.reset.out = [] ∧ State.reset.loadOpen = true ∧
    ∀ s : State, hostReset hardware s = State.reset

/-- 70_reset_and_hazards.md R104: a load copies the image, any bytes at all, to address 0 onward and changes nothing
else (the load bit aside, log entry 4). -/
def Obligations.LoadCopiesImage : Prop :=
  ∀ (c : Config) (bytes : List Byte) (s : State), s.loadOpen = true → bytes.length ≤ c.memSize → s.mem.wf →
    ∃ t : State, load c bytes s = .accepted t ∧
      (∀ n : Nat, n < bytes.length → t.mem.read n = bytes.getD n 0#8) ∧
      (∀ n : Nat, bytes.length ≤ n → t.mem.read n = s.mem.read n) ∧
      t.x = s.x ∧ t.pc = s.pc ∧ t.fl = s.fl ∧ t.status = s.status ∧ t.fault = s.fault ∧ t.out = s.out

/-- 70_reset_and_hazards.md R105 (decision D16): when a load is refused; and a load or an enabled step refuses every
later one. -/
def Obligations.LoadRefusals : Prop :=
  ∀ (c : Config) (bytes : List Byte) (s : State),
    (load c bytes s = .refused ↔ c.memSize < bytes.length ∨ s.loadOpen = false) ∧
    (∀ t : State, load c bytes s = .accepted t → ∀ more : List Byte, load c more t = .refused) ∧
    (∀ t : State, s.status = .running → step s = .next t → load c bytes t = .refused)

/-- 40_engine.md R59: registers, `pc` and memory can be read back exactly when the block has stopped. -/
def Obligations.ReadBackOnlyWhenStopped : Prop :=
  ∀ s : State,
    (s.status = .running → s.readBack = none) ∧
    (s.status ≠ .running → s.readBack = some { x := s.x, pc := s.pc, mem := s.mem })
end

