-- ==== Sys2Proof/Laws/Memory.lean ====
section
/-! SUPPORT. Reading after writing, and that every memory operation keeps the canonical form (20_memory.md R33, R34). -/

namespace Sys2Proof.Machine

@[simp] theorem Memory.read_nil (a : Nat) : Memory.read [] a = Memory.unlisted := rfl

/-- An address below every listed one reads as unlisted. -/
theorem Memory.read_of_lt {m : Memory} {a : Nat} (h : ∀ p ∈ m, a < p.1) : m.read a = Memory.unlisted := by
  induction m with
  | nil => rfl
  | cons p rest ih =>
    have hp : a ≠ p.1 := (h p (by simp)).ne
    simp only [Memory.read, hp, if_false]
    exact ih fun q hq => h q (by simp [hq])

/-- A write leaves every other address alone (20_memory.md R34), in any list of cells. -/
theorem Memory.read_write_ne (m : Memory) {a b : Nat} (v : Byte) (h : b ≠ a) :
    (m.write a v).read b = m.read b := by
  induction m with
  | nil => simp only [Memory.write]; split <;> simp [Memory.read, h]
  | cons p rest ih =>
    simp only [Memory.write]
    split_ifs <;> simp_all [Memory.read]

/-- A read after a write to the same address gives the value written (20_memory.md R33, R34). -/
theorem Memory.read_write_eq {m : Memory} (hm : m.wf) (a : Nat) (v : Byte) : (m.write a v).read a = v := by
  induction m with
  | nil => simp only [Memory.write]; split <;> simp_all [Memory.read]
  | cons p rest ih =>
    obtain ⟨hsorted, hlisted⟩ := hm
    obtain ⟨hp, hrest⟩ := List.pairwise_cons.mp hsorted
    have hwf : Memory.wf rest := ⟨hrest, fun q hq => hlisted q (by simp [hq])⟩
    simp only [Memory.write]
    split_ifs with hlt hv heq hv
    · rw [hv]
      refine Memory.read_of_lt fun q hq => ?_
      rcases List.mem_cons.mp hq with rfl | hq
      · exact hlt
      · exact hlt.trans (hp q hq)
    · simp [Memory.read]
    · rw [hv]
      exact Memory.read_of_lt fun q hq => heq ▸ hp q hq
    · simp [Memory.read]
    · simp [Memory.read, heq, ih hwf]

/-- Memory as a function of the address, after a write. -/
theorem Memory.read_write {m : Memory} (hm : m.wf) (a b : Nat) (v : Byte) :
    (m.write a v).read b = if b = a then v else m.read b := by
  split
  · subst b; exact Memory.read_write_eq hm a v
  · exact Memory.read_write_ne m v ‹_›

/-- Every cell listed after a write was listed before or is the cell written. -/
theorem Memory.mem_write {m : Memory} {a : Nat} {v : Byte} {p : Host.Cell} (h : p ∈ m.write a v) :
    p ∈ m ∨ (p = (a, v) ∧ v ≠ Memory.unlisted) := by
  induction m with
  | nil => simp only [Memory.write] at h; split at h <;> simp_all
  | cons q rest ih =>
    simp only [Memory.write] at h
    split_ifs at h <;> simp only [List.mem_cons] at h ⊢ <;> grind

/-- A write keeps the canonical form. -/
theorem Memory.wf_write {m : Memory} (hm : m.wf) (a : Nat) (v : Byte) : (m.write a v).wf := by
  obtain ⟨hsorted, hlisted⟩ := hm
  constructor
  · induction m with
    | nil => simp only [Memory.write]; split <;> simp
    | cons p rest ih =>
      obtain ⟨hp, hrest⟩ := List.pairwise_cons.mp hsorted
      simp only [Memory.write]
      split_ifs with hlt hv heq hv
      · exact hsorted
      · refine List.pairwise_cons.mpr ⟨fun q hq => ?_, hsorted⟩
        rcases List.mem_cons.mp hq with rfl | hq
        · exact hlt
        · exact hlt.trans (hp q hq)
      · exact hrest
      · exact List.pairwise_cons.mpr ⟨fun q hq => heq ▸ hp q hq, hrest⟩
      · refine List.pairwise_cons.mpr ⟨fun q hq => ?_, ih hrest fun q hq => hlisted q (by simp [hq])⟩
        rcases Memory.mem_write hq with hq | ⟨rfl, -⟩
        · exact hp q hq
        · show p.1 < a
          omega
  · intro p hp
    rcases Memory.mem_write hp with h | ⟨rfl, h⟩
    · exact hlisted p h
    · exact h

/-- A write to an existing cell lists no cell that does not exist. -/
theorem Memory.within_write {m : Memory} {n a : Nat} (hm : m.within n) (ha : a < n) (v : Byte) :
    (m.write a v).within n := by
  intro p hp
  rcases Memory.mem_write hp with h | ⟨rfl, -⟩
  · exact hm p h
  · exact ha

/-- Writing bytes to consecutive addresses keeps the canonical form. -/
theorem Memory.wf_writeList {m : Memory} (hm : m.wf) (a : Nat) (vs : List Byte) : (m.writeList a vs).wf := by
  induction vs generalizing m a with
  | nil => exact hm
  | cons v vs ih => exact ih (Memory.wf_write hm a v) (a + 1)

/-- Writing bytes that end inside memory lists no cell that does not exist. -/
theorem Memory.within_writeList {m : Memory} {n a : Nat} (hm : m.within n) {vs : List Byte}
    (h : a + vs.length ≤ n) : (m.writeList a vs).within n := by
  induction vs generalizing m a with
  | nil => exact hm
  | cons v vs ih =>
    simp only [List.length_cons] at h
    exact ih (Memory.within_write hm (by omega) v) (by omega)

/-- Memory as a function of the address, after bytes were written to consecutive addresses. -/
theorem Memory.read_writeList {m : Memory} (hm : m.wf) (a b : Nat) (vs : List Byte) :
    (m.writeList a vs).read b = if h : a ≤ b ∧ b < a + vs.length then vs[b - a]'(by omega) else m.read b := by
  induction vs generalizing m a with
  | nil => simp [Memory.writeList]
  | cons v vs ih =>
    rw [Memory.writeList, ih (Memory.wf_write hm a v), Memory.read_write hm]
    simp only [List.length_cons]
    by_cases hb : b = a
    · subst hb
      simp
    · split_ifs with h₁ h₂ h₂
      · rw [List.getElem_cons]
        split
        · omega
        · congr 1
      · omega
      · omega
      · rfl

/-- The memory of the reset state is in canonical form. -/
theorem Memory.wf_reset : State.reset.mem.wf := by decide

end Sys2Proof.Machine
end

