-- ==== Sys2Proof/Laws/State.lean ====
section
/-! SUPPORT. The fields of the state after each named update: one lemma a field and update. -/

namespace Sys2Proof.Machine

@[simp] theorem State.setReg_x (s : State) (i : Reg) (v : Byte) : (s.setReg i v).x = s.x.set i v := rfl
@[simp] theorem State.setReg_pc (s : State) (i : Reg) (v : Byte) : (s.setReg i v).pc = s.pc := rfl
@[simp] theorem State.setReg_fl (s : State) (i : Reg) (v : Byte) : (s.setReg i v).fl = s.fl := rfl
@[simp] theorem State.setReg_mem (s : State) (i : Reg) (v : Byte) : (s.setReg i v).mem = s.mem := rfl
@[simp] theorem State.setReg_status (s : State) (i : Reg) (v : Byte) : (s.setReg i v).status = s.status := rfl
@[simp] theorem State.setReg_fault (s : State) (i : Reg) (v : Byte) : (s.setReg i v).fault = s.fault := rfl
@[simp] theorem State.setReg_out (s : State) (i : Reg) (v : Byte) : (s.setReg i v).out = s.out := rfl
@[simp] theorem State.setReg_loadOpen (s : State) (i : Reg) (v : Byte) : (s.setReg i v).loadOpen = s.loadOpen := rfl

@[simp] theorem State.writeMem_x (s : State) (a : Nat) (v : Byte) : (s.writeMem a v).x = s.x := rfl
@[simp] theorem State.writeMem_pc (s : State) (a : Nat) (v : Byte) : (s.writeMem a v).pc = s.pc := rfl
@[simp] theorem State.writeMem_fl (s : State) (a : Nat) (v : Byte) : (s.writeMem a v).fl = s.fl := rfl
@[simp] theorem State.writeMem_mem (s : State) (a : Nat) (v : Byte) : (s.writeMem a v).mem = s.mem.write a v := rfl
@[simp] theorem State.writeMem_status (s : State) (a : Nat) (v : Byte) : (s.writeMem a v).status = s.status := rfl
@[simp] theorem State.writeMem_fault (s : State) (a : Nat) (v : Byte) : (s.writeMem a v).fault = s.fault := rfl
@[simp] theorem State.writeMem_out (s : State) (a : Nat) (v : Byte) : (s.writeMem a v).out = s.out := rfl
@[simp] theorem State.writeMem_loadOpen (s : State) (a : Nat) (v : Byte) : (s.writeMem a v).loadOpen = s.loadOpen := rfl
@[simp] theorem State.writeMem_reg (s : State) (a : Nat) (v : Byte) (j : Reg) : (s.writeMem a v).reg j = s.reg j := rfl
@[simp] theorem State.writeMem_sp (s : State) (a : Nat) (v : Byte) : (s.writeMem a v).sp = s.sp := rfl

@[simp] theorem State.advance_x (s : State) (n : Nat) : (s.advance n).x = s.x := rfl
@[simp] theorem State.advance_pc (s : State) (n : Nat) : (s.advance n).pc = s.pc + n := rfl
@[simp] theorem State.advance_fl (s : State) (n : Nat) : (s.advance n).fl = s.fl := rfl
@[simp] theorem State.advance_mem (s : State) (n : Nat) : (s.advance n).mem = s.mem := rfl
@[simp] theorem State.advance_status (s : State) (n : Nat) : (s.advance n).status = s.status := rfl
@[simp] theorem State.advance_fault (s : State) (n : Nat) : (s.advance n).fault = s.fault := rfl
@[simp] theorem State.advance_out (s : State) (n : Nat) : (s.advance n).out = s.out := rfl
@[simp] theorem State.advance_loadOpen (s : State) (n : Nat) : (s.advance n).loadOpen = s.loadOpen := rfl
@[simp] theorem State.advance_reg (s : State) (n : Nat) (j : Reg) : (s.advance n).reg j = s.reg j := rfl
@[simp] theorem State.advance_sp (s : State) (n : Nat) : (s.advance n).sp = s.sp := rfl

@[simp] theorem State.jump_x (s : State) (n : Nat) : (s.jump n).x = s.x := rfl
@[simp] theorem State.jump_pc (s : State) (n : Nat) : (s.jump n).pc = n := rfl
@[simp] theorem State.jump_fl (s : State) (n : Nat) : (s.jump n).fl = s.fl := rfl
@[simp] theorem State.jump_mem (s : State) (n : Nat) : (s.jump n).mem = s.mem := rfl
@[simp] theorem State.jump_status (s : State) (n : Nat) : (s.jump n).status = s.status := rfl
@[simp] theorem State.jump_fault (s : State) (n : Nat) : (s.jump n).fault = s.fault := rfl
@[simp] theorem State.jump_out (s : State) (n : Nat) : (s.jump n).out = s.out := rfl
@[simp] theorem State.jump_loadOpen (s : State) (n : Nat) : (s.jump n).loadOpen = s.loadOpen := rfl
@[simp] theorem State.jump_reg (s : State) (n : Nat) (j : Reg) : (s.jump n).reg j = s.reg j := rfl
@[simp] theorem State.jump_sp (s : State) (n : Nat) : (s.jump n).sp = s.sp := rfl

@[simp] theorem State.emit_x (s : State) (v : Byte) : (s.emit v).x = s.x := rfl
@[simp] theorem State.emit_pc (s : State) (v : Byte) : (s.emit v).pc = s.pc := rfl
@[simp] theorem State.emit_fl (s : State) (v : Byte) : (s.emit v).fl = s.fl := rfl
@[simp] theorem State.emit_mem (s : State) (v : Byte) : (s.emit v).mem = s.mem := rfl
@[simp] theorem State.emit_status (s : State) (v : Byte) : (s.emit v).status = s.status := rfl
@[simp] theorem State.emit_fault (s : State) (v : Byte) : (s.emit v).fault = s.fault := rfl
@[simp] theorem State.emit_out (s : State) (v : Byte) : (s.emit v).out = s.out ++ [v] := rfl
@[simp] theorem State.emit_loadOpen (s : State) (v : Byte) : (s.emit v).loadOpen = s.loadOpen := rfl
@[simp] theorem State.emit_reg (s : State) (v : Byte) (j : Reg) : (s.emit v).reg j = s.reg j := rfl
@[simp] theorem State.emit_sp (s : State) (v : Byte) : (s.emit v).sp = s.sp := rfl

@[simp] theorem State.halt_x (s : State) : s.halt.x = s.x := rfl
@[simp] theorem State.halt_pc (s : State) : s.halt.pc = s.pc := rfl
@[simp] theorem State.halt_fl (s : State) : s.halt.fl = s.fl := rfl
@[simp] theorem State.halt_mem (s : State) : s.halt.mem = s.mem := rfl
@[simp] theorem State.halt_status (s : State) : s.halt.status = .halted := rfl
@[simp] theorem State.halt_fault (s : State) : s.halt.fault = s.fault := rfl
@[simp] theorem State.halt_out (s : State) : s.halt.out = s.out := rfl
@[simp] theorem State.halt_loadOpen (s : State) : s.halt.loadOpen = s.loadOpen := rfl
@[simp] theorem State.halt_reg (s : State) (j : Reg) : s.halt.reg j = s.reg j := rfl
@[simp] theorem State.halt_sp (s : State) : s.halt.sp = s.sp := rfl

@[simp] theorem State.closeLoad_x (s : State) : s.closeLoad.x = s.x := rfl
@[simp] theorem State.closeLoad_pc (s : State) : s.closeLoad.pc = s.pc := rfl
@[simp] theorem State.closeLoad_fl (s : State) : s.closeLoad.fl = s.fl := rfl
@[simp] theorem State.closeLoad_mem (s : State) : s.closeLoad.mem = s.mem := rfl
@[simp] theorem State.closeLoad_status (s : State) : s.closeLoad.status = s.status := rfl
@[simp] theorem State.closeLoad_fault (s : State) : s.closeLoad.fault = s.fault := rfl
@[simp] theorem State.closeLoad_out (s : State) : s.closeLoad.out = s.out := rfl
@[simp] theorem State.closeLoad_loadOpen (s : State) : s.closeLoad.loadOpen = false := rfl
@[simp] theorem State.closeLoad_reg (s : State) (j : Reg) : s.closeLoad.reg j = s.reg j := rfl
@[simp] theorem State.closeLoad_sp (s : State) : s.closeLoad.sp = s.sp := rfl

@[simp] theorem State.raise_x (s : State) (e : FaultCause) : (s.raise e).x = s.x := rfl
@[simp] theorem State.raise_pc (s : State) (e : FaultCause) : (s.raise e).pc = s.pc := rfl
@[simp] theorem State.raise_fl (s : State) (e : FaultCause) : (s.raise e).fl = s.fl := rfl
@[simp] theorem State.raise_mem (s : State) (e : FaultCause) : (s.raise e).mem = s.mem := rfl
@[simp] theorem State.raise_status (s : State) (e : FaultCause) : (s.raise e).status = .error := rfl
@[simp] theorem State.raise_fault (s : State) (e : FaultCause) : (s.raise e).fault = some { cause := e, pc := s.pc } := rfl
@[simp] theorem State.raise_out (s : State) (e : FaultCause) : (s.raise e).out = s.out := rfl
@[simp] theorem State.raise_loadOpen (s : State) (e : FaultCause) : (s.raise e).loadOpen = s.loadOpen := rfl
@[simp] theorem State.raise_reg (s : State) (e : FaultCause) (j : Reg) : (s.raise e).reg j = s.reg j := rfl
@[simp] theorem State.raise_sp (s : State) (e : FaultCause) : (s.raise e).sp = s.sp := rfl

@[simp] theorem State.spDec_x (s : State) : s.spDec.x = s.x.set spIndex (s.sp - 1#8) := rfl
@[simp] theorem State.spDec_pc (s : State) : s.spDec.pc = s.pc := rfl
@[simp] theorem State.spDec_fl (s : State) : s.spDec.fl = s.fl := rfl
@[simp] theorem State.spDec_mem (s : State) : s.spDec.mem = s.mem := rfl
@[simp] theorem State.spDec_status (s : State) : s.spDec.status = s.status := rfl
@[simp] theorem State.spDec_fault (s : State) : s.spDec.fault = s.fault := rfl
@[simp] theorem State.spDec_out (s : State) : s.spDec.out = s.out := rfl
@[simp] theorem State.spDec_loadOpen (s : State) : s.spDec.loadOpen = s.loadOpen := rfl

@[simp] theorem State.spInc_x (s : State) : s.spInc.x = s.x.set spIndex (s.sp + 1#8) := rfl
@[simp] theorem State.spInc_pc (s : State) : s.spInc.pc = s.pc := rfl
@[simp] theorem State.spInc_fl (s : State) : s.spInc.fl = s.fl := rfl
@[simp] theorem State.spInc_mem (s : State) : s.spInc.mem = s.mem := rfl
@[simp] theorem State.spInc_status (s : State) : s.spInc.status = s.status := rfl
@[simp] theorem State.spInc_fault (s : State) : s.spInc.fault = s.fault := rfl
@[simp] theorem State.spInc_out (s : State) : s.spInc.out = s.out := rfl
@[simp] theorem State.spInc_loadOpen (s : State) : s.spInc.loadOpen = s.loadOpen := rfl

/-- Reading a register after one was written. -/
@[simp] theorem State.setReg_reg (s : State) (i : Reg) (v : Byte) (j : Reg) :
    (s.setReg i v).reg j = if i = j then v else s.reg j := by
  simp [State.reg, State.setReg, Vector.getElem_set, Fin.ext_iff]

@[simp] theorem State.spDec_reg (s : State) (j : Reg) :
    s.spDec.reg j = if spIndex = j then s.sp - 1#8 else s.reg j :=
  State.setReg_reg s spIndex _ j

@[simp] theorem State.spInc_reg (s : State) (j : Reg) :
    s.spInc.reg j = if spIndex = j then s.sp + 1#8 else s.reg j :=
  State.setReg_reg s spIndex _ j

/-- `SP` after a register was written. -/
@[simp] theorem State.setReg_sp (s : State) (i : Reg) (v : Byte) :
    (s.setReg i v).sp = if i = spIndex then v else s.sp :=
  State.setReg_reg s i v spIndex

@[simp] theorem State.spDec_sp (s : State) : s.spDec.sp = s.sp - 1#8 := by
  simp [State.spDec]

@[simp] theorem State.spInc_sp (s : State) : s.spInc.sp = s.sp + 1#8 := by
  simp [State.spInc]

end Sys2Proof.Machine
end

