-- ==== Sys2Proof/Laws/Boot.lean ====
section
/-! SUPPORT. What a load can answer (70_reset_and_hazards.md R104, R105). -/

namespace Sys2Proof.Machine

/-- A load is accepted exactly when the block still takes one and the image fits; it writes memory and closes the window
for another. -/
theorem load_eq_accepted {c : Config} {bytes : List Byte} {s t : State} :
    load c bytes s = .accepted t ↔
      s.loadOpen = true ∧ bytes.length ≤ c.memSize ∧
        t = { s.closeLoad with mem := s.mem.writeList 0 bytes } := by
  unfold load
  split_ifs with h
  · refine ⟨nofun, ?_⟩
    rintro ⟨h₁, h₂, -⟩
    rcases h with h | h
    · simp [h] at h₁
    · omega
  · obtain ⟨h₁, h₂⟩ := not_or.mp h
    simp only [LoadOutcome.accepted.injEq]
    exact ⟨fun q => ⟨by simpa using h₁, by omega, q.symm⟩, fun q => q.2.2.symm⟩

end Sys2Proof.Machine
end

