-- ==== Sys2Proof/Laws/Ops.lean ====
section
/-! SUPPORT. What each shared check and operation can answer, said once. -/

namespace Sys2Proof.Machine

theorem State.check_ok {α : Type} (s : State) (v : α) (go : α → Result) : s.check (.ok v) go = go v := rfl

theorem State.check_error {α : Type} (s : State) (e : FaultCause) (go : α → Result) :
    s.check (.error e) go = .next (s.raise e) := rfl

/-- A check that answers a next state has raised its fault, or granted a value and gone on. -/
theorem State.check_next {α : Type} {s t : State} {granted : Except FaultCause α} {go : α → Result}
    (h : s.check granted go = .next t) :
    (∃ e, granted = .error e ∧ t = s.raise e) ∨ ∃ v, granted = .ok v ∧ go v = .next t := by
  cases granted with
  | error e => exact .inl ⟨e, rfl, by simpa [State.check] using h.symm⟩
  | ok v => exact .inr ⟨v, rfl, h⟩

/-- A register operand grants exactly the register whose number it is (30_encoding.md R48). -/
theorem regOperand_eq_ok {a : Byte} {r : Reg} : regOperand a = .ok r ↔ a.toNat = r.val := by
  simp only [regOperand]
  split
  · simp [Fin.ext_iff]
  · simp only [reduceCtorEq, false_iff]; omega

/-- A register operand of 8 or more is out of bounds, and no other fault comes from one (30_encoding.md R48). -/
theorem regOperand_eq_error {a : Byte} {e : FaultCause} :
    regOperand a = .error e ↔ 8 ≤ a.toNat ∧ e = .outOfBounds .reg a.toNat := by
  simp only [regOperand]
  split
  · simp only [reduceCtorEq, false_iff]; omega
  · simp only [Except.error.injEq, eq_comm (b := e)]; constructor
    · exact fun h => ⟨by omega, h⟩
    · exact fun h => h.2

/-- The cell PUSH and CALL may write (10_state.md R16). -/
theorem pushSlot_eq_ok {c : Config} {s : State} {slot : Nat} :
    pushSlot c s = .ok slot ↔ 1 ≤ s.sp.toNat ∧ s.sp.toNat ≤ c.memSize ∧ slot + 1 = s.sp.toNat := by
  simp only [pushSlot]
  split
  · simp only [reduceCtorEq, false_iff]; omega
  · simp only [Except.ok.injEq]; omega

/-- When PUSH and CALL find no cell (60_exceptions.md R92). -/
theorem pushSlot_eq_error {c : Config} {s : State} {e : FaultCause} :
    pushSlot c s = .error e ↔
      (s.sp.toNat < 1 ∨ c.memSize < s.sp.toNat) ∧ e = .outOfBounds .stack ((s.sp.toNat : Int) - 1) := by
  unfold pushSlot
  split_ifs with h
  · exact ⟨fun q => ⟨h, (Except.error.inj q).symm⟩, fun q => q.2 ▸ rfl⟩
  · exact ⟨nofun, fun q => absurd q.1 h⟩

/-- The cell POP and RET may read (10_state.md R16). -/
theorem popSlot_eq_ok {c : Config} {s : State} {slot : Nat} :
    popSlot c s = .ok slot ↔ s.sp.toNat < c.memSize ∧ slot = s.sp.toNat := by
  simp only [popSlot]
  split
  · simp only [reduceCtorEq, false_iff]; omega
  · simp only [Except.ok.injEq]; omega

/-- When POP and RET find no cell (60_exceptions.md R92). -/
theorem popSlot_eq_error {c : Config} {s : State} {e : FaultCause} :
    popSlot c s = .error e ↔ c.memSize ≤ s.sp.toNat ∧ e = .outOfBounds .stack s.sp.toNat := by
  unfold popSlot
  split_ifs with h
  · exact ⟨fun q => ⟨h, (Except.error.inj q).symm⟩, fun q => q.2 ▸ rfl⟩
  · exact ⟨nofun, fun q => absurd q.1 h⟩

/-- A value can be incremented when it is at most 254 (10_state.md R16). -/
theorem incrementable_eq_ok {v : Byte} {u : Unit} : incrementable v = .ok u ↔ v.toNat ≤ 254 := by
  simp only [incrementable]
  split
  · simp only [reduceCtorEq, false_iff]; omega
  · simp only [true_iff]; omega

/-- Incrementing 255 would leave the byte range (60_exceptions.md R92). -/
theorem incrementable_eq_error {v : Byte} {e : FaultCause} :
    incrementable v = .error e ↔ 254 < v.toNat ∧ e = .outOfBounds .stack ((v.toNat : Int) + 1) := by
  unfold incrementable
  split_ifs with h
  · exact ⟨fun q => ⟨h, (Except.error.inj q).symm⟩, fun q => q.2 ▸ rfl⟩
  · exact ⟨nofun, fun q => absurd q.1 h⟩

/-- The ALU answers for ADD and MUL alone, and then it has written the destination register (41_alu.md R75, R76). -/
theorem alu_ok {op : AluOp} {d r : Reg} {s t : State} (h : alu op d r s = .ok t) :
    (op = .add ∧ t = s.setReg d (wrapAdd (s.reg d) (s.reg r))) ∨
      (op = .mul ∧ t = s.setReg d (wrapMul (s.reg d) (s.reg r))) := by
  cases op with
  | add => exact .inl ⟨rfl, by simpa [alu] using h.symm⟩
  | mul => exact .inr ⟨rfl, by simpa [alu] using h.symm⟩
  | other name => simp [alu] at h

/-- Only an operation outside ADD and MUL makes the ALU raise a fault (41_alu.md R76). -/
theorem alu_error {op : AluOp} {d r : Reg} {s : State} {e : FaultCause} (h : alu op d r s = .error e) :
    ∃ name, op = .other name ∧ e = .unsupportedAluOperation op := by
  cases op with
  | add => simp [alu] at h
  | mul => simp [alu] at h
  | other name => exact ⟨name, rfl, by simpa [alu] using h.symm⟩

end Sys2Proof.Machine
end

