-- ==== Sys2Proof/Laws/Handlers.lean ====
section
/-! SUPPORT. Inversion: everything a handler that answers a next state can have done, and the same for a step. -/

namespace Sys2Proof.Machine

variable {c : Config} {a b : Byte} {s t : State}

theorem execLdi_next (h : execLdi a b s = .next t) :
    (∃ e, regOperand a = .error e ∧ t = s.raise e) ∨
      ∃ r, regOperand a = .ok r ∧ t = (s.setReg r b).advance 3 := by
  obtain ⟨e, he, ht⟩ | ⟨r, hr, ht⟩ := State.check_next h
  · exact .inl ⟨e, he, ht⟩
  · exact .inr ⟨r, hr, by simpa using ht.symm⟩

theorem execPrn_next (h : execPrn a s = .next t) :
    (∃ e, regOperand a = .error e ∧ t = s.raise e) ∨
      ∃ r, regOperand a = .ok r ∧ t = (s.emit (s.reg r)).advance 2 := by
  obtain ⟨e, he, ht⟩ | ⟨r, hr, ht⟩ := State.check_next h
  · exact .inl ⟨e, he, ht⟩
  · exact .inr ⟨r, hr, by simpa using ht.symm⟩

theorem execHlt_next (h : execHlt s = .next t) : t = (s.advance 1).halt := by
  simpa [execHlt] using h.symm

/-- An ALU instruction has raised a fault, or written what the ALU gave and advanced by 3. -/
theorem aluInstruction_next {op : AluOp} (h : aluInstruction op a b s = .next t) :
    (∃ e, (regOperand a = .error e ∨ regOperand b = .error e ∨ ∃ d r, alu op d r s = .error e) ∧ t = s.raise e) ∨
      ∃ d r u, regOperand a = .ok d ∧ regOperand b = .ok r ∧ alu op d r s = .ok u ∧ t = u.advance 3 := by
  obtain ⟨e, he, ht⟩ | ⟨d, hd, h⟩ := State.check_next h
  · exact .inl ⟨e, .inl he, ht⟩
  obtain ⟨e, he, ht⟩ | ⟨r, hr, h⟩ := State.check_next h
  · exact .inl ⟨e, .inr (.inl he), ht⟩
  obtain ⟨e, he, ht⟩ | ⟨u, hu, h⟩ := State.check_next h
  · exact .inl ⟨e, .inr (.inr ⟨d, r, he⟩), ht⟩
  · exact .inr ⟨d, r, u, hd, hr, hu, by simpa using h.symm⟩

theorem pushWith_next (h : pushWith c a s = .next t) :
    (∃ e, (regOperand a = .error e ∨ pushSlot c s = .error e) ∧ t = s.raise e) ∨
      ∃ r slot, regOperand a = .ok r ∧ pushSlot c s = .ok slot ∧
        t = (s.spDec.writeMem slot (s.spDec.reg r)).advance 2 := by
  obtain ⟨e, he, ht⟩ | ⟨r, hr, h⟩ := State.check_next h
  · exact .inl ⟨e, .inl he, ht⟩
  obtain ⟨e, he, ht⟩ | ⟨slot, hs, h⟩ := State.check_next h
  · exact .inl ⟨e, .inr he, ht⟩
  · exact .inr ⟨r, slot, hr, hs, by simpa using h.symm⟩

theorem popWith_next (h : popWith c a s = .next t) :
    (∃ e, (regOperand a = .error e ∨ popSlot c s = .error e ∨ ∃ v, incrementable v = .error e) ∧ t = s.raise e) ∨
      ∃ r slot, regOperand a = .ok r ∧ popSlot c s = .ok slot ∧
        incrementable (popIncremented r (s.mem.read slot) s) = .ok () ∧
        t = (s.setReg r (s.mem.read slot)).spInc.advance 2 := by
  obtain ⟨e, he, ht⟩ | ⟨r, hr, h⟩ := State.check_next h
  · exact .inl ⟨e, .inl he, ht⟩
  obtain ⟨e, he, ht⟩ | ⟨slot, hs, h⟩ := State.check_next h
  · exact .inl ⟨e, .inr (.inl he), ht⟩
  obtain ⟨e, he, ht⟩ | ⟨u, hu, h⟩ := State.check_next h
  · exact .inl ⟨e, .inr (.inr ⟨_, he⟩), ht⟩
  · exact .inr ⟨r, slot, hr, hs, hu, by simpa using h.symm⟩

theorem callWith_next (h : callWith c a s = .next t) :
    (∃ e, (regOperand a = .error e ∨ pushSlot c s = .error e) ∧ t = s.raise e) ∨
      ∃ r slot, regOperand a = .ok r ∧ pushSlot c s = .ok slot ∧ s.pc + 2 ≤ 255 ∧
        t = (s.writeMem slot (BitVec.ofNat 8 (s.pc + 2))).spDec.jump (s.spDec.reg r).toNat := by
  obtain ⟨e, he, ht⟩ | ⟨r, hr, h⟩ := State.check_next h
  · exact .inl ⟨e, .inl he, ht⟩
  obtain ⟨e, he, ht⟩ | ⟨slot, hs, h⟩ := State.check_next h
  · exact .inl ⟨e, .inr he, ht⟩
  split at h
  · cases h
  · exact .inr ⟨r, slot, hr, hs, by omega, by simpa using h.symm⟩

theorem retWith_next (h : retWith c s = .next t) :
    (∃ e, (popSlot c s = .error e ∨ ∃ v, incrementable v = .error e) ∧ t = s.raise e) ∨
      ∃ slot, popSlot c s = .ok slot ∧ incrementable s.sp = .ok () ∧
        t = (s.jump (s.mem.read slot).toNat).spInc := by
  obtain ⟨e, he, ht⟩ | ⟨slot, hs, h⟩ := State.check_next h
  · exact .inl ⟨e, .inl he, ht⟩
  obtain ⟨e, he, ht⟩ | ⟨u, hu, h⟩ := State.check_next h
  · exact .inl ⟨e, .inr ⟨_, he⟩, ht⟩
  · exact .inr ⟨slot, hs, hu, by simpa using h.symm⟩

/-- The handlers of this hardware are the parametrised handlers at its parameters. -/
theorem exec_eq_handleWith : exec = handleWith hardware := by
  funext i s; cases i <;> rfl

/-- A step has done nothing because the block has stopped, or raised the fetch's or the dispatcher's fault, or run the
handler of the instruction fetched. -/
theorem engineStep_next {run : Instr → State → Result} (h : engineStep c run s = .next t) :
    (s.status ≠ .running ∧ t = s) ∨
      (s.status = .running ∧
        ((∃ e, fetch c s = .error e ∧ t = s.closeLoad.raise e) ∨
          ∃ i, fetch c s = .ok i ∧ run i s.closeLoad = .next t)) := by
  unfold engineStep at h
  split at h
  · exact .inr ⟨‹_›, State.check_next h⟩
  · exact .inl ⟨‹_›, by simpa using h.symm⟩

/-- What a fetch grants: the window lies in memory, and the bytes there are an instruction's (40_engine.md R61 to R63). -/
theorem fetch_eq_ok {i : Instr} : fetch c s = .ok i ↔ s.fetchable c ∧ s.decodeAtPc c = .ok i := by
  unfold fetch
  split
  · cases s.decodeAtPc c <;> simp_all [Except.mapError]
  · simp_all

/-- A fetch raises only the fetch's and the dispatcher's fault (60_exceptions.md R93). -/
theorem fetch_eq_error {e : FaultCause} : fetch c s = .error e ↔
    (¬ s.fetchable c ∧ e = .outOfBounds .fetch (lowestInvalid c s.pc)) ∨
      (s.fetchable c ∧ ∃ d, s.decodeAtPc c = .error d ∧ e = dispatchFault d) := by
  unfold fetch
  split
  · cases s.decodeAtPc c <;> simp_all [Except.mapError, eq_comm]
  · simp_all [eq_comm]

end Sys2Proof.Machine
end

