-- ==== Sys2Proof/Laws/PerInstr.lean ====
section
/-! SUPPORT. Statements about every instruction as syntax, one lemma a constructor. -/

namespace Sys2Proof.Laws.OperandCount

/-- On this hardware the two high bits of the opcode byte count the operand bytes (30_encoding.md R46). -/
def Statement (i : Instr) : Prop := (encode hardware i).length = 1 + operandCount (opcode hardware i)

theorem of_bytes {i : Instr} {opc : Byte} {n : Nat} (hopc : opcode hardware i = opc)
    (hn : (operandBytes i).length = n) (h : operandCount opc = n) : Statement i := by
  unfold Statement encode
  rw [List.length_cons, hopc, h, hn, Nat.add_comm]

theorem ldi (a b : Byte) : Statement (.ldi a b) := of_bytes (opc := 0x82#8) (n := 2) rfl rfl (by decide)
theorem prn (a : Byte) : Statement (.prn a) := of_bytes (opc := 0x47#8) (n := 1) rfl rfl (by decide)
theorem hlt : Statement .hlt := of_bytes (opc := 0x01#8) (n := 0) rfl rfl (by decide)
theorem mul (a b : Byte) : Statement (.mul a b) := of_bytes (opc := 0xA2#8) (n := 2) rfl rfl (by decide)
theorem add (a b : Byte) : Statement (.add a b) := of_bytes (opc := 0xA0#8) (n := 2) rfl rfl (by decide)
theorem push (a : Byte) : Statement (.push a) := of_bytes (opc := 0x45#8) (n := 1) rfl rfl (by decide)
theorem pop (a : Byte) : Statement (.pop a) := of_bytes (opc := 0x46#8) (n := 1) rfl rfl (by decide)
theorem call (a : Byte) : Statement (.call a) := of_bytes (opc := 0x50#8) (n := 1) rfl rfl (by decide)
theorem ret : Statement .ret := of_bytes (opc := 0x11#8) (n := 0) rfl rfl (by decide)

end Sys2Proof.Laws.OperandCount
end

