-- ==== Sys2Proof/Tests/Slice0.lean ====
section
/-! SUPPORT. Tests whose expected results are the vectors of spec/95_test_vectors.md (named V-…) and the bytes of
30_encoding.md R51 and R57; and for every statement with hypotheses a witness that meets them. -/

namespace Sys2Proof.Tests

open Sys2Proof.Machine

/-- The state a next-state answer holds. -/
def after : Result → Option State
  | .next t => some t
  | _ => none

/-- The reset state with the stack pointer `sp`, at `pc`, with `bytes` at `pc`. -/
def at_ (sp : Byte) (pc : Nat) (bytes : List Byte) : State :=
  { State.reset with
    x := State.reset.x.set spIndex sp, pc := pc, mem := Memory.writeList [] pc bytes }

/-- The reset state at `pc` with `x0` and `x1` given and `bytes` at `pc`. -/
def regs (v w : Byte) (pc : Nat) (bytes : List Byte) : State :=
  { at_ 0xF4#8 pc bytes with x := (State.reset.x.set 0 v).set 1 w }

/-- One step's `status`, `fault` and `pc`. -/
def stop (r : Result) : Option (Status × Option FaultRecord × Nat) :=
  (after r).map fun t => (t.status, t.fault, t.pc)

/-- The fault record of an out-of-bounds fault. -/
def oob (kind : BoundsKind) (value : Int) (pc : Nat) : Option FaultRecord :=
  some { cause := .outOfBounds kind value, pc := pc }

/-- A machine with 256 cells. -/
def wide : Config := { hardware with memSize := 256 }

/-- A machine with 3 cells. -/
def tiny : Config := { hardware with memSize := 3 }

/-! ### Decoding: one word for every constructor, written out from 30_encoding.md R51 and R57 -/

theorem test_decode_ldi : decode hardware 0b10000010#8 0#8 8#8 = .ok (.ldi 0#8 8#8) := by decide
theorem test_decode_prn : decode hardware 0b01000111#8 0#8 0xFF#8 = .ok (.prn 0#8) := by decide
theorem test_decode_hlt : decode hardware 0b00000001#8 0xFF#8 0xFF#8 = .ok .hlt := by decide
theorem test_decode_mul : decode hardware 0b10100010#8 9#8 8#8 = .ok (.mul 9#8 8#8) := by decide
theorem test_decode_add : decode hardware 0b10100000#8 0xFF#8 0#8 = .ok (.add 0xFF#8 0#8) := by decide
theorem test_decode_push : decode hardware 0b01000101#8 7#8 0xFF#8 = .ok (.push 7#8) := by decide
theorem test_decode_pop : decode hardware 0b01000110#8 2#8 0xFF#8 = .ok (.pop 2#8) := by decide
theorem test_decode_call : decode hardware 0b01010000#8 1#8 0xFF#8 = .ok (.call 1#8) := by decide
theorem test_decode_ret : decode hardware 0b00010001#8 0xFF#8 0xFF#8 = .ok .ret := by decide
/-- V-DEC-3. -/
theorem test_decode_unrecognized : decode hardware 0x02#8 0#8 0#8 = .error (.unrecognizedOpcode 0x02#8) := by decide
theorem test_table_word : decodeTableWord 24 0x0801A0 = some (.add 1#8 8#8) := by decide
theorem test_fetch_word : (after (step (State.reset.withFetchWord 24 0x050382))).map (·.reg 3) = some 5#8 := by decide

/-! ### Well-formedness: an ill-formed term for each register operand -/

theorem test_well_formed : (Instr.ldi 7#8 0xFF#8).WellFormed ∧ Instr.hlt.WellFormed ∧ Instr.ret.WellFormed := by decide
theorem test_ill_formed_one : ¬ (Instr.ldi 8#8 0#8).WellFormed ∧ ¬ (Instr.prn 8#8).WellFormed ∧
    ¬ (Instr.push 8#8).WellFormed ∧ ¬ (Instr.pop 8#8).WellFormed ∧ ¬ (Instr.call 8#8).WellFormed := by decide
theorem test_ill_formed_two : ¬ (Instr.mul 8#8 0#8).WellFormed ∧ ¬ (Instr.mul 0#8 8#8).WellFormed ∧
    ¬ (Instr.add 8#8 0#8).WellFormed ∧ ¬ (Instr.add 0#8 8#8).WellFormed := by decide

/-! ### Single steps -/

/-- V-ALU-2. -/
theorem test_add_wraps :
    (after (step (regs 200#8 100#8 0x10 [0xA0#8, 0#8, 1#8]))).map (fun t => (t.reg 0, t.reg 1, t.pc)) =
      some (44#8, 100#8, 0x13) := by decide
/-- V-ALU-13. -/
theorem test_add_second_register_faults :
    stop (step (regs 1#8 1#8 0x10 [0xA0#8, 0#8, 8#8])) = some (.error, oob .reg 8 0x10, 0x10) := by decide
/-- V-ALU-8. -/
theorem test_mul_wraps :
    (after (step (regs 255#8 255#8 0x10 [0xA2#8, 0#8, 1#8]))).map (fun t => (t.reg 0, t.reg 1, t.pc)) =
      some (1#8, 255#8, 0x13) := by decide
/-- V-ALU-14. -/
theorem test_mul_first_register_faults_first :
    stop (step (regs 1#8 1#8 0x10 [0xA2#8, 9#8, 8#8])) = some (.error, oob .reg 9 0x10, 0x10) := by decide
/-- V-ALU-16. -/
theorem test_alu_alone : alu (.other "SUB") 0 1 State.reset = .error (.unsupportedAluOperation (.other "SUB")) := rfl
/-- V-IO-4. -/
theorem test_ldi_sets_sp :
    (after (step (at_ 0xF4#8 0 [0x82#8, 7#8, 0#8]))).map (fun t => (t.sp, t.pc)) = some (0#8, 3) := by decide
/-- V-IO-5. -/
theorem test_ldi_register_faults :
    stop (step (at_ 0xF4#8 0 [0x82#8, 8#8, 1#8])) = some (.error, oob .reg 8 0, 0) := by decide
/-- V-IO-7. -/
theorem test_prn_emits_sp :
    (after (step (at_ 0xF4#8 0 [0x47#8, 7#8]))).map (fun t => (t.out, t.pc)) = some ([244#8], 2) := by decide
/-- V-IO-6. -/
theorem test_prn_fault_keeps_output :
    (after (step { at_ 0xF4#8 3 [0x47#8, 200#8] with out := [7#8] })).map (fun t => (t.out, t.fault)) =
      some ([7#8], oob .reg 200 3) := by decide
/-- V-STK-2. -/
theorem test_push_sp_stores_decremented :
    (after (step (at_ 0xF4#8 0x20 [0x45#8, 7#8]))).map (fun t => (t.sp, t.mem.read 0xF3, t.pc)) =
      some (0xF3#8, 0xF3#8, 0x22) := by decide
/-- V-STK-4. -/
theorem test_push_at_zero_faults :
    stop (step (at_ 0#8 0x20 [0x45#8, 2#8])) = some (.error, oob .stack (-1) 0x20, 0x20) := by decide
/-- V-STK-12. -/
theorem test_pop_sp_increments_popped :
    (after (popWith hardware 7#8 { at_ 0xF3#8 0x20 [] with mem := [(0xF3, 0x10#8)] })).map
      (fun t => (t.sp, t.pc)) = some (0x11#8, 0x22) := by decide
/-- V-STK-13. -/
theorem test_pop_sp_of_255_faults :
    stop (exec (.pop 7#8) { at_ 0xF3#8 0x20 [] with mem := [(0xF3, 0xFF#8)] }) =
      some (.error, oob .stack 256 0x20, 0x20) := by decide
/-- V-HLT-2. -/
theorem test_hlt_last_address : stop (step (at_ 0xF4#8 252 [0x01#8])) = some (.halted, none, 253) := by decide
/-- V-DEC-7. -/
theorem test_hlt_in_256_cells : stop (stepWith wide (at_ 0xF4#8 253 [0x01#8])) = some (.halted, none, 254) := by decide
/-- V-HLT-5. -/
theorem test_halted_step_does_nothing :
    after (step { State.reset with status := .halted }) = some { State.reset with status := .halted } := by decide
/-- V-CTL-2. -/
theorem test_call_sp :
    (after (step (at_ 0xF4#8 20 [0x50#8, 7#8]))).map (fun t => (t.mem.read 0xF3, t.sp, t.pc)) =
      some (22#8, 0xF3#8, 0xF3) := by decide
/-- V-CTL-1. -/
theorem test_call_pushes_return_address :
    (after (step (regs 0#8 11#8 6 [0x50#8, 1#8]))).map (fun t => (t.mem.read 0xF3, t.sp, t.pc)) =
      some (8#8, 0xF3#8, 11) := by decide
/-- V-CTL-6. -/
theorem test_ret_on_empty_stack :
    (after (step (at_ 0xF4#8 14 [0x11#8]))).map (fun t => (t.sp, t.pc)) = some (0xF5#8, 0) := by decide
/-- V-CTL-7. -/
theorem test_ret_at_255_faults :
    stop (step (at_ 255#8 14 [0x11#8])) = some (.error, oob .stack 255 14, 14) := by decide
/-- V-DEC-4: a step with no load runs on memory of zeros. -/
theorem test_step_without_load :
    stop (step State.reset) = some (.error, some { cause := .unrecognizedOpcode 0#8, pc := 0 }, 0) := by decide
/-- V-DEC-5. -/
theorem test_fetch_fault_before_opcode :
    stop (step (at_ 0xF4#8 253 [0xFF#8])) = some (.error, oob .fetch 255 253, 253) := by decide
/-- V-RST-4. -/
theorem test_second_load_refused :
    load hardware [] { State.reset with loadOpen := false } = .refused := by decide
/-- 30_encoding.md R57, the forms `LDI rA,imm` and `ADD rA,rB`, in either case and with a hex immediate. -/
theorem test_assembler :
    assemble hardware [['l', 'd', 'i', ' ', 'R', '0', ',', '0', 'x', 'f', 'F'], ['A', 'D', 'D', ' ', 'r', '0', ',', 'r', '1']] =
      some [0x82#8, 0#8, 255#8, 0xA0#8, 0#8, 1#8] := by decide
/-- The numbers of 60_exceptions.md R88 and 10_state.md R24. -/
theorem test_codes : (FaultCause.unrecognizedOpcode 0#8).code = 1 ∧ (FaultCause.unsupportedAluOperation .add).code = 2 ∧
    (FaultCause.outOfBounds .stack 0).code = 3 ∧ BoundsKind.fetch.code = 0 ∧ BoundsKind.reg.code = 1 ∧
    BoundsKind.stack.code = 2 ∧ Status.running.code = 0 ∧ Status.halted.code = 1 ∧ Status.error.code = 2 := by decide

/-! ### Witnesses: a state and operands that meet the hypotheses of each statement, clause by clause, at the boundary -/

theorem witness_StepRunsDecodedInstruction :
    ∃ (s : State) (i : Instr), s.status = .running ∧ s.pc + 2 ≤ 254 ∧
      decode hardware (s.mem.read s.pc) (s.mem.read (s.pc + 1)) (s.mem.read (s.pc + 2)) = .ok i :=
  ⟨at_ 0xF4#8 252 [0xA0#8, 1#8, 8#8], .add 1#8 8#8, by decide⟩

/-- The lowest invalid address is `pc + 2`, `pc + 1` and `pc`. -/
theorem witness_FetchOutsideWindowFaults :
    ∀ p ∈ [253, 254, 255, 256], (at_ 0xF4#8 p []).status = .running ∧ 254 < (at_ 0xF4#8 p []).pc + 2 := by decide

theorem witness_UnrecognizedOpcodeStops :
    ∃ s : State, s.status = .running ∧ s.pc + 2 ≤ 254 ∧
      s.mem.read s.pc ∉ [0x82#8, 0x47#8, 0x01#8, 0xA2#8, 0xA0#8, 0x45#8, 0x46#8, 0x50#8, 0x11#8] :=
  ⟨at_ 0xF4#8 252 [0xC0#8], by decide⟩

/-- Also for StoppedRunStaysAsItIs and ReadBackOnlyWhenStopped. -/
theorem witness_DisabledStepDoesNothing :
    ({ State.reset with status := .halted } : State).status ≠ .running ∧
      (State.reset.raise (.unrecognizedOpcode 0#8)).status ≠ .running ∧ State.reset.status = .running := by decide

/-- Also for DecodeInvertsEncode and ReachableStatesMeetInvariant: the smallest, the largest and this hardware's memory. -/
theorem witness_EveryStepCompletes : tiny.Legal ∧ wide.Legal ∧ hardware.Legal := by decide

theorem witness_FaultingStepIsPrecise :
    ∃ s t : State, s.status = .running ∧ step s = .next t ∧ t.status = .error :=
  ⟨State.reset, _, rfl, rfl, rfl⟩

theorem witness_DispatchByWholeOpcodeByte :
    0x00#8 ∉ [0x82#8, 0x47#8, 0x01#8, 0xA2#8, 0xA0#8, 0x45#8, 0x46#8, 0x50#8, 0x11#8] ∧
    0xFF#8 ∉ [0x82#8, 0x47#8, 0x01#8, 0xA2#8, 0xA0#8, 0x45#8, 0x46#8, 0x50#8, 0x11#8] := by decide

theorem witness_EncodeInvertsDecode :
    ∃ (c : Config) (opc a b : Byte) (i : Instr), decode c opc a b = .ok i :=
  ⟨hardware, 0x11#8, 0xFF#8, 0xFF#8, .ret, by decide⟩

theorem witness_PcAdvancesByEncodedLength :
    ∃ (i : Instr) (s t : State), (∀ a, i ≠ .call a) ∧ i ≠ .ret ∧ s.status ≠ .error ∧ exec i s = .next t ∧
      t.status ≠ .error :=
  ⟨.hlt, State.reset, _, nofun, nofun, nofun, rfl, nofun⟩

theorem witness_AssemblerReadsRenderedLine : (Instr.ldi 7#8 255#8).WellFormed ∧ (Instr.mul 0#8 7#8).WellFormed := by
  decide

theorem witness_AssemblerGivesWellFormedInstructions :
    assembleLine ['p', 'o', 'p', ' ', 'R', '7'] = some (.pop 7#8) := by decide

/-- Clauses of LdiLoadsImmediate, PrnEmitsRegister, AddWritesSumModulo256 and MulWritesProductModulo256, and the operand
clauses of the statements of PUSH, POP and CALL: an operand of 8, an operand of 7, and a `pc` beyond the window. -/
theorem witness_RegisterOperands :
    8 ≤ (8#8 : Byte).toNat ∧ (7#8 : Byte).toNat = (7 : Reg).val ∧ (7#8 : Byte).toNat < 8 ∧
      (0#8 : Byte).toNat = (0 : Reg).val ∧ 254 < (at_ 0xF4#8 253 []).pc + 2 := by decide

/-- Clauses of PushStoresBelowStackPointer, RetPopsReturnAddress, and of POP and CALL: `SP` at 0, 1, 254 and 255. -/
theorem witness_StackPointers :
    (at_ 0#8 0 []).sp = 0#8 ∧ (at_ 1#8 0 []).sp ≠ 0#8 ∧ (at_ 255#8 0 []).sp = 255#8 ∧ (at_ 254#8 0 []).sp ≠ 255#8 := by
  decide

/-- Further clauses of PopLoadsFromStackPointer: `POP r7` of 255 and of 254, `POP r6`. -/
theorem witness_PopLoadsFromStackPointer :
    (at_ 254#8 254 [255#8]).sp ≠ 255#8 ∧ (at_ 254#8 254 [255#8]).mem.read 254 = 255#8 ∧
      (at_ 254#8 254 [254#8]).mem.read (at_ 254#8 254 [254#8]).sp.toNat ≠ 255#8 ∧
      (7#8 : Byte).toNat = spIndex.val ∧ (6 : Reg) ≠ spIndex := by decide

/-- Further clauses of CallPushesReturnAddressAndJumps: `pc` at 253 and 254. -/
theorem witness_CallPushesReturnAddressAndJumps :
    (at_ 1#8 253 []).sp ≠ 0#8 ∧ (at_ 1#8 253 []).pc + 2 ≤ 255 ∧ 255 < (at_ 1#8 254 []).pc + 2 := by decide

/-- Clauses of StackBoundsUnderAnyMemorySize. -/
theorem witness_StackBoundsUnderAnyMemorySize :
    (at_ 0#8 0 []).sp.toNat = 0 ∧ tiny.memSize < (at_ 4#8 0 []).sp.toNat ∧ tiny.memSize ≤ (at_ 3#8 0 []).sp.toNat ∧
      wide.memSize = 256 ∧ (at_ 255#8 0 []).sp.toNat = 255 ∧ tiny.Legal ∧ wide.Legal ∧
      (0#8 : Byte).toNat = (0 : Reg).val ∧ (0 : Reg) ≠ spIndex := by decide

theorem witness_FirstBadRegisterOperandFaults :
    (Instr.add 8#8 9#8).registerOperands.find? (fun q => decide (8 ≤ q.toNat)) = some 8#8 ∧
      (Instr.mul 7#8 255#8).registerOperands.find? (fun q => decide (8 ≤ q.toNat)) = some 255#8 := by decide

theorem witness_WellFormedRaisesNoRegisterFault :
    ∃ (i : Instr) (s t : State), i.WellFormed ∧ s.fault = none ∧ exec i s = .next t :=
  ⟨.prn 7#8, State.reset, _, by decide, rfl, rfl⟩

/-- Also for NoStepWritesFlags, OutputGrowsOnlyByPrn and StepKeepsInvariant. -/
theorem witness_NoStepRaisesUnsupportedAlu :
    ∃ s t : State, s.Inv hardware ∧ s.fault = none ∧ step s = .next t :=
  ⟨State.reset, _, by decide, rfl, rfl⟩

theorem witness_AluWritesOnlyDestination :
    ∃ (op : AluOp) (d r : Reg) (s t : State), alu op d r s = .ok t :=
  ⟨.mul, 7, 0, State.reset, _, rfl⟩

theorem witness_RegisterWriteFrame :
    ∃ (i : Instr) (a : Byte) (s t : State), (∃ b, i = .ldi a b ∨ i = .add a b ∨ i = .mul a b) ∧
      exec i s = .next t ∧ i.WellFormed :=
  ⟨.add 7#8 0#8, 7#8, State.reset, _, ⟨0#8, .inr (.inl rfl)⟩, rfl, by decide⟩

theorem witness_PrnFrame : ∃ (a : Byte) (s t : State), exec (.prn a) s = .next t ∧ a.toNat < 8 :=
  ⟨7#8, State.reset, _, rfl, by decide⟩

theorem witness_HltFrame : ∃ s t : State, exec .hlt s = .next t := ⟨State.reset, _, rfl⟩

/-- A stack store with a cell to write and one without. -/
theorem witness_StackStoreFrame :
    (∃ (i : Instr) (a : Byte) (s t : State) (slot : Nat), (i = .push a ∨ i = .call a) ∧ exec i s = .next t ∧
      pushSlot hardware s = .ok slot ∧ a.toNat < 8) ∧
    ∃ (i : Instr) (a : Byte) (s t : State) (e : FaultCause), (i = .push a ∨ i = .call a) ∧ exec i s = .next t ∧
      pushSlot hardware s = .error e :=
  ⟨⟨.call 7#8, 7#8, at_ 1#8 0 [], _, _, .inr rfl, rfl, rfl, by decide⟩,
    ⟨.push 7#8, 7#8, at_ 0#8 0 [], _, _, .inl rfl, rfl, rfl⟩⟩

theorem witness_StackLoadFrame :
    (∃ (a : Byte) (s t : State), exec (.pop a) s = .next t ∧ a.toNat < 8 ∧ s.sp ≠ 255#8 ∧
      (a.toNat = 7 → s.mem.read s.sp.toNat ≠ 255#8)) ∧
    ∃ s t : State, exec .ret s = .next t ∧ s.sp ≠ 255#8 :=
  ⟨⟨7#8, at_ 254#8 0 [], _, rfl, by decide⟩, ⟨at_ 254#8 0 [], _, rfl, by decide⟩⟩

/-- The clauses for PUSH and CALL, RET, `POP r0` and `POP r7`. -/
theorem witness_StackPointerNeverWraps :
    (∃ t, exec (.push 0#8) (at_ 1#8 0 []) = .next t ∧ t.status = .running) ∧
    (∃ t, exec .ret (at_ 254#8 0 []) = .next t ∧ t.status = .running) ∧
    (∃ t, exec (.pop 0#8) (at_ 254#8 0 []) = .next t ∧ t.status = .running) ∧
    ∃ t, exec (.pop 7#8) (at_ 254#8 254 [254#8]) = .next t ∧ t.status = .running :=
  ⟨⟨_, rfl, rfl⟩, ⟨_, rfl, rfl⟩, ⟨_, rfl, rfl⟩, ⟨_, rfl, rfl⟩⟩

/-- For PushThenPopRestoresRegisters, CallThenRetComesBack, LdiThenPrnEmitsImmediate and LaterReadsSeeThePush. -/
theorem witness_StackRoundTrips :
    (7#8 : Byte).toNat < 8 ∧ (7#8 : Byte).toNat = spIndex.val ∧ (at_ 1#8 252 []).sp ≠ 0#8 ∧
      (at_ 1#8 252 []).pc + 2 ≤ 254 ∧ (at_ 1#8 252 []).mem.wf := by decide

theorem witness_PushOverItsOwnOperand :
    ∃ (s : State) (r : Reg), s.status = .running ∧ s.pc + 2 ≤ 254 ∧ s.mem.wf ∧ s.mem.read s.pc = 0x45#8 ∧
      (s.mem.read (s.pc + 1)).toNat = r.val ∧ s.sp.toNat = s.pc + 2 :=
  ⟨at_ 254#8 252 [0x45#8, 7#8], 7, by decide⟩

theorem witness_ReachableStatesMeetInvariant : Reachable hardware State.reset := .reset

/-- Each clause of InvariantUnderAnyLegalParameters, with the smallest and the largest memory: a step, and a load of an
image that fills memory. -/
theorem witness_InvariantUnderAnyLegalParameters :
    tiny.Legal ∧ wide.Legal ∧
      (∃ s t : State, s.Inv wide ∧ stepWith wide s = .next t) ∧
      ∃ (s t : State) (bytes : List Byte), s.Inv tiny ∧ load tiny bytes s = .accepted t :=
  ⟨by decide, by decide, ⟨at_ 0xF4#8 253 [0x01#8], _, by decide, rfl⟩,
    ⟨State.resetWith tiny, _, [0x01#8, 0#8, 2#8], by decide, rfl⟩⟩

theorem witness_OnlyPushAndCallWriteMemory :
    ∃ (i : Instr) (s t : State), (∀ a, i ≠ .push a) ∧ (∀ a, i ≠ .call a) ∧ exec i s = .next t :=
  ⟨.ret, State.reset, _, nofun, nofun, rfl⟩

theorem witness_OnlyHltHalts :
    ∃ s t : State, s.status = .running ∧ step s = .next t ∧ t.status = .halted :=
  ⟨at_ 0xF4#8 252 [0x01#8], _, rfl, rfl, rfl⟩

/-- An image of the whole memory, and one byte more. -/
theorem witness_LoadCopiesImage :
    State.reset.loadOpen = true ∧ (List.replicate 255 1#8).length ≤ hardware.memSize ∧ State.reset.mem.wf ∧
      hardware.memSize < (List.replicate 256 1#8).length :=
  ⟨rfl, by rw [List.length_replicate]; decide, by decide, by rw [List.length_replicate]; decide⟩

theorem witness_LoadRefusals :
    (∃ t, load hardware [1#8] State.reset = .accepted t) ∧ ∃ t, State.reset.status = .running ∧ step State.reset = .next t :=
  ⟨⟨_, rfl⟩, ⟨_, rfl, rfl⟩⟩

end Sys2Proof.Tests
end

section
/-! PROOFS of the statements about the scope and the parameters (00_scope.md R6). -/

namespace Sys2Proof.Machine

/-- The defaults lie in the range of 00_scope.md R6: 255 cells, and no two rows of 30_encoding.md R51 share an opcode
byte. -/
theorem hardware_legal : hardware.Legal := by
  have hcells : 3 ≤ hardware.memSize ∧ hardware.memSize ≤ 256 := by decide
  have hopcodes : [opcLdi, opcPrn, opcHlt, opcAdd, hardware.opcMul, hardware.opcPush, hardware.opcPop,
      hardware.opcCall, hardware.opcRet].Nodup := by decide
  exact ⟨hcells.1, hcells.2, hopcodes⟩

/-- Settles O9: both steps are the one engine step, and their handlers agree. -/
theorem stepIsParametrisedStep : Obligations.StepIsParametrisedStep := by
  funext s
  calc step s = engineStep hardware exec s := rfl
    _ = engineStep hardware (handleWith hardware) s := by rw [exec_eq_handleWith]
    _ = stepWith hardware s := rfl

/-- Settles O10: the defaults by definition, and their legality. -/
theorem hardwareParameters : Obligations.HardwareParameters :=
  ⟨rfl, rfl, rfl, rfl, rfl, rfl, rfl, hardware_legal⟩

end Sys2Proof.Machine
end

section
/-! PROOFS of the statements about the state (10_state.md): the invariant of R30, the frames, the bounds of the
stack-pointer controller, and what a step does to the flags, the output and the run status. All but the stack bounds rest
on one inversion of the handlers, `handleWith_next`, and one of the step, `stepWith_next`. -/

namespace Sys2Proof.Machine

/-! ### What a handler does -/

/-- A check of the handler of an instruction fails with a fault cause (60_exceptions.md R92). `handleWith_next` ties it to
the handlers. -/
inductive CheckFails (c : Config) (s : State) : Instr → FaultCause → Prop where
  | register {i : Instr} {q : Byte} {e : FaultCause} :
      q ∈ i.registerOperands → regOperand q = .error e → CheckFails c s i e
  | pushNoCell {a : Byte} {e : FaultCause} : pushSlot c s = .error e → CheckFails c s (.push a) e
  | callNoCell {a : Byte} {e : FaultCause} : pushSlot c s = .error e → CheckFails c s (.call a) e
  | popNoCell {a : Byte} {e : FaultCause} : popSlot c s = .error e → CheckFails c s (.pop a) e
  | popOverflow {a : Byte} {r : Reg} {slot : Nat} {e : FaultCause} :
      regOperand a = .ok r → popSlot c s = .ok slot →
      incrementable (popIncremented r (s.mem.read slot) s) = .error e → CheckFails c s (.pop a) e
  | retNoCell {e : FaultCause} : popSlot c s = .error e → CheckFails c s .ret e
  | retOverflow {e : FaultCause} : incrementable s.sp = .error e → CheckFails c s .ret e

/-- What the handler of an instruction leaves when all its checks pass. `handleWith_next` ties it to the handlers. -/
inductive Completed (c : Config) (s : State) : Instr → State → Prop where
  | ldi {a b : Byte} {r : Reg} : regOperand a = .ok r → Completed c s (.ldi a b) ((s.setReg r b).advance 3)
  | prn {a : Byte} {r : Reg} : regOperand a = .ok r → Completed c s (.prn a) ((s.emit (s.reg r)).advance 2)
  | hlt : Completed c s .hlt (s.advance 1).halt
  | mul {a b : Byte} {d r : Reg} : regOperand a = .ok d → regOperand b = .ok r →
      Completed c s (.mul a b) ((s.setReg d (wrapMul (s.reg d) (s.reg r))).advance 3)
  | add {a b : Byte} {d r : Reg} : regOperand a = .ok d → regOperand b = .ok r →
      Completed c s (.add a b) ((s.setReg d (wrapAdd (s.reg d) (s.reg r))).advance 3)
  | push {a : Byte} {r : Reg} {slot : Nat} : regOperand a = .ok r → pushSlot c s = .ok slot →
      Completed c s (.push a) ((s.spDec.writeMem slot (s.spDec.reg r)).advance 2)
  | pop {a : Byte} {r : Reg} {slot : Nat} : regOperand a = .ok r → popSlot c s = .ok slot →
      incrementable (popIncremented r (s.mem.read slot) s) = .ok () →
      Completed c s (.pop a) ((s.setReg r (s.mem.read slot)).spInc.advance 2)
  | call {a : Byte} {r : Reg} {slot : Nat} : regOperand a = .ok r → pushSlot c s = .ok slot → s.pc + 2 ≤ 255 →
      Completed c s (.call a) ((s.writeMem slot (BitVec.ofNat 8 (s.pc + 2))).spDec.jump (s.spDec.reg r).toNat)
  | ret {slot : Nat} : popSlot c s = .ok slot → incrementable s.sp = .ok () →
      Completed c s .ret (s.jump (s.mem.read slot).toNat).spInc

section Inversion

variable {c : Config} {i : Instr} {a b : Byte} {s t : State}

/-- An ALU instruction whose operation is ADD or MUL raises no fault but a register operand's. -/
theorem aluInstruction_next_of_supported {op : AluOp} (hop : op = .add ∨ op = .mul)
    (h : aluInstruction op a b s = .next t) :
    (∃ e, (∃ q ∈ [a, b], regOperand q = .error e) ∧ t = s.raise e) ∨
      ∃ d r u, regOperand a = .ok d ∧ regOperand b = .ok r ∧ alu op d r s = .ok u ∧ t = u.advance 3 := by
  refine (aluInstruction_next h).imp_left ?_
  rintro ⟨e, ha | hb | ⟨d, r, he⟩, ht⟩
  · exact ⟨e, ⟨a, by simp, ha⟩, ht⟩
  · exact ⟨e, ⟨b, by simp, hb⟩, ht⟩
  · obtain ⟨name, rfl, -⟩ := alu_error he
    simp at hop

/-- A handler that answers a next state has raised the fault of a check that failed, or completed. -/
theorem handleWith_next (h : handleWith c i s = .next t) :
    (∃ e, CheckFails c s i e ∧ t = s.raise e) ∨ Completed c s i t := by
  cases i with
  | ldi a b =>
    obtain ⟨e, he, ht⟩ | ⟨r, hr, rfl⟩ := execLdi_next h
    · exact .inl ⟨e, .register (List.mem_singleton_self a) he, ht⟩
    · exact .inr (.ldi hr)
  | prn a =>
    obtain ⟨e, he, ht⟩ | ⟨r, hr, rfl⟩ := execPrn_next h
    · exact .inl ⟨e, .register (List.mem_singleton_self a) he, ht⟩
    · exact .inr (.prn hr)
  | hlt =>
    obtain rfl := execHlt_next h
    exact .inr .hlt
  | mul a b =>
    obtain ⟨e, ⟨q, hq, he⟩, ht⟩ | ⟨d, r, u, hd, hr, hu, rfl⟩ := aluInstruction_next_of_supported (.inr rfl) h
    · exact .inl ⟨e, .register hq he, ht⟩
    · obtain rfl := Except.ok.inj hu
      exact .inr (.mul hd hr)
  | add a b =>
    obtain ⟨e, ⟨q, hq, he⟩, ht⟩ | ⟨d, r, u, hd, hr, hu, rfl⟩ := aluInstruction_next_of_supported (.inl rfl) h
    · exact .inl ⟨e, .register hq he, ht⟩
    · obtain rfl := Except.ok.inj hu
      exact .inr (.add hd hr)
  | push a =>
    obtain ⟨e, he | he, ht⟩ | ⟨r, slot, hr, hs, rfl⟩ := pushWith_next h
    · exact .inl ⟨e, .register (List.mem_singleton_self a) he, ht⟩
    · exact .inl ⟨e, .pushNoCell he, ht⟩
    · exact .inr (.push hr hs)
  | pop a =>
    obtain ⟨e, he, ht⟩ | ⟨r, hr, h⟩ := State.check_next h
    · exact .inl ⟨e, .register (List.mem_singleton_self a) he, ht⟩
    obtain ⟨e, he, ht⟩ | ⟨slot, hs, h⟩ := State.check_next h
    · exact .inl ⟨e, .popNoCell he, ht⟩
    obtain ⟨e, he, ht⟩ | ⟨u, hu, h⟩ := State.check_next h
    · exact .inl ⟨e, .popOverflow hr hs he, ht⟩
    · obtain rfl := Host.Outcome.next.inj h
      exact .inr (.pop hr hs hu)
  | call a =>
    obtain ⟨e, he | he, ht⟩ | ⟨r, slot, hr, hs, hpc, rfl⟩ := callWith_next h
    · exact .inl ⟨e, .register (List.mem_singleton_self a) he, ht⟩
    · exact .inl ⟨e, .callNoCell he, ht⟩
    · exact .inr (.call hr hs hpc)
  | ret =>
    obtain ⟨e, he, ht⟩ | ⟨slot, hs, h⟩ := State.check_next h
    · exact .inl ⟨e, .retNoCell he, ht⟩
    obtain ⟨e, he, ht⟩ | ⟨u, hu, h⟩ := State.check_next h
    · exact .inl ⟨e, .retOverflow he, ht⟩
    · obtain rfl := Host.Outcome.next.inj h
      exact .inr (.ret hs hu)

/-- The same for the handlers of this hardware. -/
theorem exec_next (h : exec i s = .next t) :
    (∃ e, CheckFails hardware s i e ∧ t = s.raise e) ∨ Completed hardware s i t :=
  handleWith_next (exec_eq_handleWith ▸ h)

/-- A step has done nothing because the block has stopped, or raised a fault and closed the load window, or run to
completion the instruction that stands at `pc` inside the fetch window. -/
theorem stepWith_next (h : stepWith c s = .next t) :
    (s.status ≠ .running ∧ t = s) ∨
      (s.status = .running ∧
        ((∃ e, t = s.closeLoad.raise e) ∨
          ∃ i, s.fetchable c ∧ s.decodeAtPc c = .ok i ∧ Completed c s.closeLoad i t)) := by
  obtain hstop | ⟨hrun, ⟨e, -, ht⟩ | ⟨i, hi, hx⟩⟩ := engineStep_next h
  · exact .inl hstop
  · exact .inr ⟨hrun, .inl ⟨e, ht⟩⟩
  · obtain ⟨hwindow, hdecode⟩ := fetch_eq_ok.mp hi
    obtain ⟨e, -, ht⟩ | hdone := handleWith_next hx
    · exact .inr ⟨hrun, .inl ⟨e, ht⟩⟩
    · exact .inr ⟨hrun, .inr ⟨i, hwindow, hdecode, hdone⟩⟩

/-- The same for the step of this hardware. -/
theorem step_next (h : step s = .next t) :
    (s.status ≠ .running ∧ t = s) ∨
      (s.status = .running ∧
        ((∃ e, t = s.closeLoad.raise e) ∨
          ∃ i, s.fetchable hardware ∧ s.decodeAtPc hardware = .ok i ∧ Completed hardware s.closeLoad i t)) :=
  stepWith_next (congrFun stepIsParametrisedStep s ▸ h)

/-! ### The fields of the state after a handler has completed -/

theorem Completed.fl_eq (h : Completed c s i t) : t.fl = s.fl := by cases h <;> rfl

theorem Completed.fault_eq (h : Completed c s i t) : t.fault = s.fault := by cases h <;> rfl

theorem Completed.loadOpen_eq (h : Completed c s i t) : t.loadOpen = s.loadOpen := by cases h <;> rfl

/-- Only HLT changes the run status (40_engine.md R69). -/
theorem Completed.status_cases (h : Completed c s i t) :
    t.status = s.status ∨ (i = .hlt ∧ t.status = .halted) := by
  cases h with
  | hlt => exact .inr ⟨rfl, rfl⟩
  | _ => exact .inl rfl

/-- Only PRN changes the output (10_state.md R26). -/
theorem Completed.out_cases (h : Completed c s i t) :
    t.out = s.out ∨ ∃ a r, i = .prn a ∧ regOperand a = .ok r ∧ t.out = s.out ++ [s.reg r] := by
  cases h with
  | prn hr => exact .inr ⟨_, _, rfl, hr, rfl⟩
  | _ => exact .inl rfl

/-- Memory stays as it was, or the one cell that the stack check grants is written (20_memory.md R34, R35). -/
theorem Completed.mem_cases (h : Completed c s i t) :
    t.mem = s.mem ∨ ∃ slot v, pushSlot c s = .ok slot ∧ t.mem = s.mem.write slot v := by
  cases h with
  | push _ hs => exact .inr ⟨_, _, hs, rfl⟩
  | call _ hs _ => exact .inr ⟨_, _, hs, rfl⟩
  | _ => exact .inl rfl

/-- `pc` has advanced by at most 3, or is a byte that CALL or RET has put there (10_state.md R18). -/
theorem Completed.pc_le (h : Completed c s i t) : t.pc ≤ s.pc + 3 ∨ t.pc ≤ 255 := by
  cases h with
  | call => exact .inr (Nat.le_of_lt_succ (BitVec.isLt _))
  | ret => exact .inr (Nat.le_of_lt_succ (BitVec.isLt _))
  | _ => left; simp

/-- No handler ends in ERROR without raising a fault. -/
theorem Completed.status_ne_error (h : Completed c s i t) (hs : s.status ≠ .error) : t.status ≠ .error := by
  obtain hst | ⟨-, hst⟩ := h.status_cases
  · rwa [hst]
  · simp [hst]

/-- A handler of this hardware changes neither FL nor the load bit, and only PRN the output, whether or not it raises a
fault. -/
theorem exec_frame (h : exec i s = .next t) (hi : ∀ a, i ≠ .prn a) :
    t.fl = s.fl ∧ t.out = s.out ∧ t.loadOpen = s.loadOpen := by
  obtain ⟨e, -, rfl⟩ | hdone := exec_next h
  · exact ⟨rfl, rfl, rfl⟩
  · obtain hout | ⟨a, -, rfl, -⟩ := hdone.out_cases
    · exact ⟨hdone.fl_eq, hout, hdone.loadOpen_eq⟩
    · exact absurd rfl (hi a)

/-- Where no check of its handler fails, an instruction other than HLT leaves `status` and the fault record alone. -/
theorem exec_status_fault_eq (h : exec i s = .next t) (hi : i ≠ .hlt) (hpass : ∀ e, ¬ CheckFails hardware s i e) :
    t.status = s.status ∧ t.fault = s.fault := by
  obtain ⟨e, he, -⟩ | hdone := exec_next h
  · exact absurd he (hpass e)
  · obtain hst | ⟨hhlt, -⟩ := hdone.status_cases
    · exact ⟨hst, hdone.fault_eq⟩
    · exact absurd hhlt hi

/-- Where no fault is raised from a running block, the handler has completed. -/
theorem completed_of_running (h : exec i s = .next t) (ht : t.status = .running) : Completed hardware s i t := by
  obtain ⟨e, -, rfl⟩ | hdone := exec_next h
  · cases ht
  · exact hdone

/-- A well-formed instruction passes every check of a register operand (30_encoding.md R48). -/
theorem regOperand_ne_error {q : Byte} {e : FaultCause} (hi : i.WellFormed) (hq : q ∈ i.registerOperands) :
    regOperand q ≠ .error e := by
  intro he
  have hlt := hi q hq
  have hge := (regOperand_eq_error.mp he).1
  omega

end Inversion

/-! ### The invariant -/

section Invariant

variable {c : Config} {i : Instr} {s t : State}

theorem State.Inv.closeLoad (h : s.Inv c) : s.closeLoad.Inv c := h

/-- Raising a fault keeps the invariant: it sets `status` and the fault record together (60_exceptions.md R89). -/
theorem State.Inv.raise (h : s.Inv c) (e : FaultCause) : (s.raise e).Inv c := by
  obtain ⟨hpc, -, hfl, hwf, hwithin⟩ := h
  exact ⟨hpc, by simp, hfl, hwf, hwithin⟩

/-- Under the invariant a block that is not in ERROR has no fault record. -/
theorem State.Inv.fault_eq_none (h : s.Inv c) (hs : s.status ≠ .error) : s.fault = none := by
  obtain ⟨-, herr, -⟩ := h
  exact not_not.mp fun hf => hs (herr.mpr hf)

/-- The cell that the stack check grants exists (10_state.md R16). -/
theorem pushSlot_lt_memSize {slot : Nat} (h : pushSlot c s = .ok slot) : slot < c.memSize := by
  obtain ⟨-, hle, hslot⟩ := pushSlot_eq_ok.mp h
  omega

/-- A handler that completes keeps memory in canonical form, with only existing cells listed. -/
theorem Completed.mem_wf_within (h : Completed c s i t) (hwf : s.mem.wf) (hwithin : s.mem.within c.memSize) :
    t.mem.wf ∧ t.mem.within c.memSize := by
  obtain hmem | ⟨slot, v, hs, hmem⟩ := h.mem_cases
  · rw [hmem]
    exact ⟨hwf, hwithin⟩
  · rw [hmem]
    exact ⟨Memory.wf_write hwf slot v, Memory.within_write hwithin (pushSlot_lt_memSize hs) v⟩

/-- A handler that completes keeps the invariant; that `pc` stays at most 256 needs the fetch window, and a memory of at
most 256 cells. -/
theorem Completed.inv (h : Completed c s i t) (hcells : c.memSize ≤ 256) (hwindow : s.fetchable c)
    (hs : s.status ≠ .error) (hinv : s.Inv c) : t.Inv c := by
  have hnone : t.fault = none := h.fault_eq.trans (hinv.fault_eq_none hs)
  obtain ⟨-, -, hfl, hwf, hwithin⟩ := hinv
  have hpc := h.pc_le
  exact ⟨by omega, iff_of_false (h.status_ne_error hs) (not_not.mpr hnone), h.fl_eq.trans hfl,
    h.mem_wf_within hwf hwithin⟩

/-- The reset state meets the invariant under any parameters. -/
theorem resetWith_inv (c : Config) : (State.resetWith c).Inv c := by
  have hmem : (State.resetWith c).mem.wf ∧ (State.resetWith c).mem.within c.memSize :=
    ⟨Memory.wf_reset, nofun⟩
  exact ⟨Nat.zero_le _, iff_of_false nofun (not_not.mpr rfl), rfl, hmem⟩

/-- Every step keeps the invariant, where memory has at most 256 cells. -/
theorem stepWith_inv (hcells : c.memSize ≤ 256) (hinv : s.Inv c) (h : stepWith c s = .next t) : t.Inv c := by
  obtain ⟨-, rfl⟩ | ⟨hrun, ⟨e, rfl⟩ | ⟨i, hwindow, -, hdone⟩⟩ := stepWith_next h
  · exact hinv
  · exact hinv.closeLoad.raise e
  · exact hdone.inv hcells hwindow (by simp [hrun]) hinv.closeLoad

/-- Every accepted load keeps the invariant: the image fits (70_reset_and_hazards.md R104). -/
theorem load_inv {bytes : List Byte} (hinv : s.Inv c) (h : load c bytes s = .accepted t) : t.Inv c := by
  obtain ⟨-, hfits, rfl⟩ := load_eq_accepted.mp h
  obtain ⟨hpc, herr, hfl, hwf, hwithin⟩ := hinv
  exact ⟨hpc, herr, hfl, Memory.wf_writeList hwf 0 bytes, Memory.within_writeList hwithin (by omega)⟩

end Invariant

/-- Settles O56: the reset state, the step and the load, each by its own lemma. -/
theorem invariantUnderAnyLegalParameters : Obligations.InvariantUnderAnyLegalParameters := by
  intro c hc
  obtain ⟨-, hcells, -⟩ := hc
  exact ⟨resetWith_inv c, fun _ _ => stepWith_inv hcells, fun _ _ _ => load_inv⟩

/-- Settles O45: the parametrised step lemma at this hardware's parameters. -/
theorem stepKeepsInvariant : Obligations.StepKeepsInvariant := by
  intro s t hinv h
  obtain ⟨-, hcells, -⟩ := hardware_legal
  exact stepWith_inv hcells hinv (congrFun stepIsParametrisedStep s ▸ h)

/-- Settles O46: the lemma for the reset state under any parameters. -/
theorem resetMeetsInvariant : Obligations.ResetMeetsInvariant := resetWith_inv hardware

/-- Settles O47, by induction on how the host reached the state. -/
theorem reachableStatesMeetInvariant : Obligations.ReachableStatesMeetInvariant := by
  intro c hc s hs
  obtain ⟨-, hcells, -⟩ := hc
  induction hs with
  | reset => exact resetWith_inv c
  | load bytes _ hload ih => exact load_inv ih hload
  | step _ hstep ih => exact stepWith_inv hcells ih hstep

/-! ### What a step does to the flags, the output and the run status -/

/-- Settles O49: no branch of a step writes FL. -/
theorem noStepWritesFlags : Obligations.NoStepWritesFlags := by
  intro s t h
  obtain ⟨-, rfl⟩ | ⟨-, ⟨e, rfl⟩ | ⟨i, -, -, hdone⟩⟩ := step_next h
  · rfl
  · rfl
  · exact hdone.fl_eq

/-- The fetch window of this hardware's 255 cells (40_engine.md R61). -/
theorem pc_le_of_fetchable {s : State} (h : s.fetchable hardware) : s.pc + 2 ≤ 254 := Nat.le_of_lt_succ h

/-- Settles O50: of the instructions that complete, PRN alone changes the output. -/
theorem outputGrowsOnlyByPrn : Obligations.OutputGrowsOnlyByPrn := by
  intro s t h
  obtain ⟨-, rfl⟩ | ⟨hrun, ⟨e, rfl⟩ | ⟨i, hwindow, hdecode, hdone⟩⟩ := step_next h
  · exact .inl rfl
  · exact .inl rfl
  · obtain hout | ⟨a, r, rfl, hr, hout⟩ := hdone.out_cases
    · exact .inl hout
    · exact .inr ⟨a, r, hrun, pc_le_of_fetchable hwindow, hdecode, regOperand_eq_ok.mp hr, hout⟩

/-- Settles O51: a fault ends in ERROR, and of the instructions that complete, HLT alone changes the status. -/
theorem onlyHltHalts : Obligations.OnlyHltHalts := by
  intro s t hrun h hhalted
  obtain ⟨hstop, -⟩ | ⟨-, ⟨e, rfl⟩ | ⟨i, hwindow, hdecode, hdone⟩⟩ := step_next h
  · exact absurd hrun hstop
  · cases hhalted
  · obtain hst | ⟨rfl, -⟩ := hdone.status_cases
    · simp [hst, hrun] at hhalted
    · cases hdone
      exact ⟨pc_le_of_fetchable hwindow, hdecode, rfl, rfl⟩

/-! ### Frames -/

section Frames

variable {c : Config} {i : Instr} {a : Byte} {s t : State}

/-- LDI, ADD and MUL that complete have written the register of their first operand and advanced by 3. -/
theorem Completed.registerWrite (hi : ∃ b, i = .ldi a b ∨ i = .add a b ∨ i = .mul a b) (h : Completed c s i t) :
    ∃ r v, a.toNat = r.val ∧ t = (s.setReg r v).advance 3 := by
  obtain ⟨b, rfl | rfl | rfl⟩ := hi
  · cases h with
    | ldi hr => exact ⟨_, b, regOperand_eq_ok.mp hr, rfl⟩
  · cases h with
    | add hd _ => exact ⟨_, _, regOperand_eq_ok.mp hd, rfl⟩
  · cases h with
    | mul hd _ => exact ⟨_, _, regOperand_eq_ok.mp hd, rfl⟩

/-- LDI, ADD and MUL check nothing but their register operands. -/
theorem CheckFails.not_wellFormed_of_registerWrite {e : FaultCause}
    (hi : ∃ b, i = .ldi a b ∨ i = .add a b ∨ i = .mul a b) (h : CheckFails c s i e) : ¬ i.WellFormed := by
  obtain ⟨q, hq, he⟩ : ∃ q ∈ i.registerOperands, regOperand q = .error e := by
    obtain ⟨b, rfl | rfl | rfl⟩ := hi <;> cases h with
    | register hq he => exact ⟨_, hq, he⟩
  exact fun hwf => regOperand_ne_error hwf hq he

/-- PUSH and CALL that complete have been granted a cell, and their registers are those after `SP_dec`. -/
theorem Completed.stackStore (hi : i = .push a ∨ i = .call a) (h : Completed c s i t) :
    (∃ slot, pushSlot c s = .ok slot) ∧ ∀ j, t.reg j = s.spDec.reg j := by
  obtain rfl | rfl := hi
  · cases h with
    | push _ hs => exact ⟨⟨_, hs⟩, fun _ => rfl⟩
  · cases h with
    | call _ hs _ => exact ⟨⟨_, hs⟩, fun _ => rfl⟩

/-- A check of PUSH or CALL that fails is the operand's or the stack's. -/
theorem CheckFails.stackStore {e : FaultCause} (hi : i = .push a ∨ i = .call a) (h : CheckFails c s i e) :
    regOperand a = .error e ∨ pushSlot c s = .error e := by
  obtain rfl | rfl := hi
  · cases h with
    | register hq he => exact .inl (List.mem_singleton.mp hq ▸ he)
    | pushNoCell he => exact .inr he
  · cases h with
    | register hq he => exact .inl (List.mem_singleton.mp hq ▸ he)
    | callNoCell he => exact .inr he

/-- The increment check fails for 255 alone (60_exceptions.md R92). -/
theorem incrementable_ne_error {v : Byte} {e : FaultCause} (hv : v ≠ 255#8) : incrementable v ≠ .error e := by
  intro he
  have hgt := (incrementable_eq_error.mp he).1
  exact hv (by bv_omega)

/-- On this hardware POP and RET find a cell unless `SP` is 255 (60_exceptions.md R92). -/
theorem popSlot_hardware_ne_error {e : FaultCause} (hsp : s.sp ≠ 255#8) : popSlot hardware s ≠ .error e := by
  intro he
  have hge : 255 ≤ s.sp.toNat := (popSlot_eq_error.mp he).1
  exact hsp (by bv_omega)

/-- No check of POP fails on this hardware for a register 0 to 7, `SP` below 255 and, for `r7`, a popped byte below 255
(43_stack.md R84). -/
theorem not_checkFails_pop {e : FaultCause} (ha : a.toNat < 8) (hsp : s.sp ≠ 255#8)
    (hpopped : a.toNat = 7 → s.mem.read s.sp.toNat ≠ 255#8) : ¬ CheckFails hardware s (.pop a) e := by
  intro h
  cases h with
  | register hq he => exact regOperand_ne_error (i := .pop a) (List.forall_mem_singleton.mpr ha) hq he
  | popNoCell he => exact popSlot_hardware_ne_error hsp he
  | @popOverflow _ r slot _ hr hs he =>
    obtain ⟨-, rfl⟩ := popSlot_eq_ok.mp hs
    refine incrementable_ne_error ?_ he
    unfold popIncremented
    split
    · next h7 =>
      subst h7
      exact hpopped (regOperand_eq_ok.mp hr)
    · exact hsp

/-- No check of RET fails on this hardware for `SP` below 255 (44_control.md R87). -/
theorem not_checkFails_ret {e : FaultCause} (hsp : s.sp ≠ 255#8) : ¬ CheckFails hardware s .ret e := by
  intro h
  cases h with
  | register hq _ => cases hq
  | retNoCell he => exact popSlot_hardware_ne_error hsp he
  | retOverflow he => exact incrementable_ne_error hsp he

/-- A handler of this hardware other than PUSH's and CALL's leaves memory alone. -/
theorem exec_mem_eq (h : exec i s = .next t) (hpush : ∀ a, i ≠ .push a) (hcall : ∀ a, i ≠ .call a) :
    t.mem = s.mem := by
  obtain ⟨e, -, rfl⟩ | hdone := exec_next h
  · rfl
  · cases hdone with
    | push => exact absurd rfl (hpush _)
    | call => exact absurd rfl (hcall _)
    | _ => rfl

end Frames

/-- Settles O34: the three forms write one register and advance, or raise a register operand's fault. -/
theorem registerWriteFrame : Obligations.RegisterWriteFrame := by
  intro i a hi s t h
  obtain ⟨hprn, hhlt⟩ : (∀ q, i ≠ .prn q) ∧ i ≠ .hlt := by
    obtain ⟨b, rfl | rfl | rfl⟩ := hi <;> exact ⟨nofun, nofun⟩
  obtain ⟨hfl, hout, hopen⟩ := exec_frame h hprn
  have hstatus : i.WellFormed → t.status = s.status ∧ t.fault = s.fault := fun hwf =>
    exec_status_fault_eq h hhlt fun e he => he.not_wellFormed_of_registerWrite hi hwf
  obtain ⟨e, -, rfl⟩ | hdone := exec_next h
  · exact ⟨fun _ _ => rfl, hfl, hout, hopen, fun _ => rfl, hstatus⟩
  · obtain ⟨r, v, hr, rfl⟩ := hdone.registerWrite hi
    refine ⟨fun j hj => ?_, hfl, hout, hopen, fun _ => rfl, hstatus⟩
    have hrj : r ≠ j := by rintro rfl; exact hj hr.symm
    simp [hrj]

/-- Settles O37: the one write goes to the cell that `pushSlot` grants, and where it grants none the handler has raised a
fault. -/
theorem stackStoreFrame : Obligations.StackStoreFrame := by
  intro i a hi s t h
  obtain ⟨hprn, hhlt⟩ : (∀ q, i ≠ .prn q) ∧ i ≠ .hlt := by
    obtain rfl | rfl := hi <;> exact ⟨nofun, nofun⟩
  obtain ⟨hfl, hout, hopen⟩ := exec_frame h hprn
  have hreg : ∀ j : Reg, j ≠ spIndex → t.reg j = s.reg j := by
    intro j hj
    obtain ⟨e, -, rfl⟩ | hdone := exec_next h
    · rfl
    · rw [(hdone.stackStore hi).2 j, State.spDec_reg, if_neg hj.symm]
  have hmem : t.mem = s.mem ∨ ∃ slot v, pushSlot hardware s = .ok slot ∧ t.mem = s.mem.write slot v := by
    obtain ⟨e, -, rfl⟩ | hdone := exec_next h
    · exact .inl rfl
    · exact hdone.mem_cases
  refine ⟨hreg, hfl, hout, hopen, fun slot hslot n hn => ?_, fun e he n => ?_, fun ha hgranted => ?_⟩
  · obtain hmem | ⟨slot', v, hslot', hmem⟩ := hmem
    · rw [hmem]
    · obtain rfl : slot = slot' := Except.ok.inj (hslot.symm.trans hslot')
      rw [hmem, Memory.read_write_ne _ _ hn]
  · obtain hmem | ⟨slot, -, hslot, -⟩ := hmem
    · rw [hmem]
    · cases he.symm.trans hslot
  · obtain ⟨slot, hslot⟩ := hgranted
    refine exec_status_fault_eq h hhlt fun e he => ?_
    obtain hbad | hbad := he.stackStore hi
    · exact absurd (regOperand_eq_error.mp hbad).1 (by omega)
    · cases hbad.symm.trans hslot

/-- Settles O38: POP and RET store nothing, and a completed one writes its register, `SP` and `pc` alone. -/
theorem stackLoadFrame : Obligations.StackLoadFrame := by
  constructor
  · intro a s t h
    obtain ⟨hfl, hout, hopen⟩ := exec_frame h nofun
    refine ⟨fun j hsp hj => ?_, hfl, hout, hopen, fun n => by rw [exec_mem_eq h nofun nofun],
      fun ha hsp hpopped => exec_status_fault_eq h nofun fun e => not_checkFails_pop ha hsp hpopped⟩
    obtain ⟨e, -, rfl⟩ | hdone := exec_next h
    · rfl
    · cases hdone with
      | @pop _ r _ hr _ _ =>
        have hrj : r ≠ j := by rintro rfl; exact hj (regOperand_eq_ok.mp hr).symm
        simp [hsp.symm, hrj]
  · intro s t h
    obtain ⟨hfl, hout, hopen⟩ := exec_frame h nofun
    refine ⟨fun j hsp => ?_, hfl, hout, hopen, fun n => by rw [exec_mem_eq h nofun nofun],
      fun hsp => exec_status_fault_eq h nofun fun e => not_checkFails_ret hsp⟩
    obtain ⟨e, -, rfl⟩ | hdone := exec_next h
    · rfl
    · cases hdone with
      | ret => simp [hsp.symm]

/-! ### The stack-pointer controller -/

/-- `SP_dec` as a number (10_state.md R16). -/
theorem State.spDec_sp_toNat {s : State} (h : 1 ≤ s.sp.toNat) : s.spDec.sp.toNat + 1 = s.sp.toNat := by
  rw [State.spDec_sp]; bv_omega

/-- `SP_inc` as a number (10_state.md R16). -/
theorem State.spInc_sp_toNat {s : State} (h : s.sp.toNat ≤ 254) : s.spInc.sp.toNat = s.sp.toNat + 1 := by
  rw [State.spInc_sp]; bv_omega

/-- `POP r7` looks at the byte it pops, any other POP at `SP`: what `SP` holds when the register has been written. -/
theorem setReg_sp_eq_popIncremented (s : State) (r : Reg) (v : Byte) : (s.setReg r v).sp = popIncremented r v s :=
  State.setReg_sp s r v

/-- Settles O39: without a fault the checks have passed, and they keep the controller off the ends of the byte range. -/
theorem stackPointerNeverWraps : Obligations.StackPointerNeverWraps := by
  intro i s t _ h ht
  have hdone := completed_of_running h ht
  have hpop : ∀ a : Byte, i = .pop a → ∃ r : Reg, a.toNat = r.val ∧
      t.sp.toNat = (popIncremented r (s.mem.read s.sp.toNat) s).toNat + 1 := by
    rintro a rfl
    cases hdone with
    | @pop _ r _ hr hs hinc =>
      obtain ⟨-, rfl⟩ := popSlot_eq_ok.mp hs
      have hle := incrementable_eq_ok.mp hinc
      refine ⟨r, regOperand_eq_ok.mp hr, ?_⟩
      rw [← setReg_sp_eq_popIncremented] at hle ⊢
      exact State.spInc_sp_toNat hle
  refine ⟨?_, ?_, ?_, ?_⟩
  · intro a hi
    obtain ⟨⟨slot, hslot⟩, hreg⟩ := hdone.stackStore hi
    have hsp : t.sp = s.spDec.sp := hreg spIndex
    exact hsp ▸ State.spDec_sp_toNat (pushSlot_eq_ok.mp hslot).1
  · rintro rfl
    cases hdone with
    | ret _ hinc => exact State.spInc_sp_toNat (incrementable_eq_ok.mp hinc)
  · intro a ha h7
    obtain ⟨r, hr, hsp⟩ := hpop a ha
    have hne : r ≠ spIndex := by rintro rfl; exact h7 hr
    rwa [popIncremented, if_neg hne] at hsp
  · intro a ha h7
    obtain ⟨r, hr, hsp⟩ := hpop a ha
    have heq : r = spIndex := Fin.ext (hr.symm.trans h7)
    rwa [popIncremented, if_pos heq] at hsp

section StackBounds

variable {c : Config} {a : Byte} {r : Reg} {s : State} {e : FaultCause}

theorem pushWith_of_pushSlot_error (hr : regOperand a = .ok r) (he : pushSlot c s = .error e) :
    pushWith c a s = .next (s.raise e) := by
  rw [pushWith, hr, State.check_ok, he, State.check_error]

theorem callWith_of_pushSlot_error (hr : regOperand a = .ok r) (he : pushSlot c s = .error e) :
    callWith c a s = .next (s.raise e) := by
  rw [callWith, hr, State.check_ok, he, State.check_error]

theorem popWith_of_popSlot_error (hr : regOperand a = .ok r) (he : popSlot c s = .error e) :
    popWith c a s = .next (s.raise e) := by
  rw [popWith, hr, State.check_ok, he, State.check_error]

theorem popWith_of_incrementable_error {slot : Nat} (hr : regOperand a = .ok r) (hs : popSlot c s = .ok slot)
    (he : incrementable (popIncremented r (s.mem.read slot) s) = .error e) : popWith c a s = .next (s.raise e) := by
  rw [popWith, hr, State.check_ok, hs, State.check_ok, he, State.check_error]

theorem retWith_of_popSlot_error (he : popSlot c s = .error e) : retWith c s = .next (s.raise e) := by
  rw [retWith, he, State.check_error]

theorem retWith_of_incrementable_error {slot : Nat} (hs : popSlot c s = .ok slot)
    (he : incrementable s.sp = .error e) : retWith c s = .next (s.raise e) := by
  rw [retWith, hs, State.check_ok, he, State.check_error]

end StackBounds

/-- Settles O27: below and above memory the slot check fails; at `SP` = 255 of 256 cells it passes and the increment check
fails. -/
theorem stackBoundsUnderAnyMemorySize : Obligations.StackBoundsUnderAnyMemorySize := by
  intro c a r s _ ha
  have hr : regOperand a = .ok r := regOperand_eq_ok.mpr ha
  refine ⟨fun hsp => ?_, fun hsp => ?_, fun hcells hsp => ?_⟩
  · have he : pushSlot c s = .error (.outOfBounds .stack ((s.sp.toNat : Int) - 1)) :=
      pushSlot_eq_error.mpr ⟨by omega, rfl⟩
    exact ⟨pushWith_of_pushSlot_error hr he, callWith_of_pushSlot_error hr he⟩
  · have he : popSlot c s = .error (.outOfBounds .stack s.sp.toNat) := popSlot_eq_error.mpr ⟨hsp, rfl⟩
    exact ⟨popWith_of_popSlot_error hr he, retWith_of_popSlot_error he⟩
  · have hs : popSlot c s = .ok s.sp.toNat := popSlot_eq_ok.mpr ⟨by omega, rfl⟩
    have he : incrementable s.sp = .error (.outOfBounds .stack 256) :=
      incrementable_eq_error.mpr ⟨by omega, by rw [hsp]; rfl⟩
    refine ⟨retWith_of_incrementable_error hs he, fun hne => popWith_of_incrementable_error hr hs ?_⟩
    rwa [popIncremented, if_neg hne]

end Sys2Proof.Machine
end

section
/-! PROOFS of the statements about memory (20_memory.md): which instructions write it, and what a later read finds. -/

namespace Sys2Proof.Machine

section PushedByte

variable {c : Config} {a : Byte} {r : Reg} {s : State} {slot : Nat}

/-- This hardware has a cell at `SP - 1` for every `SP` but 0: its 255 cells reach up to that of `SP` = 255. -/
theorem pushSlot_hardware_of_ne_zero (hsp : s.sp ≠ 0#8) : pushSlot hardware s = .ok (s.sp.toNat - 1) := by
  have hpos : 1 ≤ s.sp.toNat := by bv_omega
  have hcells : s.sp.toNat ≤ hardware.memSize := Nat.le_of_lt_succ s.sp.isLt
  exact pushSlot_eq_ok.mpr ⟨hpos, hcells, Nat.sub_add_cancel hpos⟩

/-- PUSH where both of its checks pass (43_stack.md R83). -/
theorem pushWith_of_pushSlot_ok (hr : regOperand a = .ok r) (hs : pushSlot c s = .ok slot) :
    pushWith c a s = .next ((s.spDec.writeMem slot (s.spDec.reg r)).advance 2) := by
  rw [pushWith, hr, State.check_ok, hs, State.check_ok]

/-- The byte PUSH stores is read after `SP_dec`, so `r7` gives the decremented `SP` (43_stack.md R83, decision D25). -/
theorem State.spDec_reg_eq_ite (s : State) (r : Reg) :
    s.spDec.reg r = if r = spIndex then s.sp - 1#8 else s.reg r := by
  simp only [State.spDec_reg, eq_comm]

end PushedByte

/-- Settles O43: PUSH passes both checks, and its one write is to the cell below the old `SP`. -/
theorem laterReadsSeeThePush : Obligations.LaterReadsSeeThePush := by
  intro a r s ha hsp hwf
  refine ⟨_, pushWith_of_pushSlot_ok (regOperand_eq_ok.mpr ha) (pushSlot_hardware_of_ne_zero hsp), fun n => ?_⟩
  rw [← State.spDec_reg_eq_ite]
  exact Memory.read_write hwf _ n _

/-- Settles O48: the frame of the handlers that store nothing, in which a fault changes no memory either. -/
theorem onlyPushAndCallWriteMemory : Obligations.OnlyPushAndCallWriteMemory :=
  fun _ _ _ hpush hcall h => exec_mem_eq h hpush hcall

end Sys2Proof.Machine
end

section
/-! PROOFS of the statements about the encoding (30_encoding.md). The decoder is tied to `opcode` and `operandBytes`
once, by `mem_dispatchTable` and `decode_eq_ok`; the assembler by what each of its readers makes of the text that
`render` writes, and by the bound of `digit?`. -/

namespace Sys2Proof.Machine

/-! ### The dispatch table -/

section Decoder

variable {c : Config} {opc a b : Byte} {i : Instr}

/-- The rows of the dispatch table are the instructions whose operand bytes the latch begins with, each under its own
opcode byte (30_encoding.md R47, R51). -/
theorem mem_dispatchTable : (opc, i) ∈ dispatchTable c a b ↔ opc = opcode c i ∧ operandBytes i <+: [a, b] := by
  cases i <;> simp [dispatchTable, opcode, operandBytes, List.cons_prefix_cons]

/-- The decoder answers with the row that the lookup finds (30_encoding.md R52). -/
theorem decode_eq_ok_iff_lookup : decode c opc a b = .ok i ↔ (dispatchTable c a b).lookup opc = some i := by
  unfold decode
  cases (dispatchTable c a b).lookup opc <;> simp

/-- The decoder refuses exactly the bytes that no row of the table has (30_encoding.md R53). -/
theorem decode_eq_error {e : DecodeError} : decode c opc a b = .error e ↔
    opc ∉ (dispatchTable c a b).map Prod.fst ∧ e = .unrecognizedOpcode opc := by
  have hnone : (dispatchTable c a b).lookup opc = none ↔ opc ∉ (dispatchTable c a b).map Prod.fst := by
    simp only [List.lookup_eq_none_iff, List.mem_map, not_exists, not_and, bne_iff_ne]
    exact forall₂_congr fun _ _ => ne_comm
  rw [← hnone]
  unfold decode
  cases (dispatchTable c a b).lookup opc <;> simp [eq_comm]

/-- Under any parameters, what decodes is a row of the table. -/
theorem mem_dispatchTable_of_decode (h : decode c opc a b = .ok i) : (opc, i) ∈ dispatchTable c a b := by
  obtain ⟨before, after, hrows, -⟩ := List.lookup_eq_some_iff.mp (decode_eq_ok_iff_lookup.mp h)
  simp [hrows]

/-- Under legal parameters no two rows of the table share an opcode byte (00_scope.md R6). -/
theorem nodup_dispatchTable_opcodes (hc : c.Legal) : ((dispatchTable c a b).map Prod.fst).Nodup := by
  obtain ⟨-, -, hdistinct⟩ := hc
  have hperm : ((dispatchTable c a b).map Prod.fst).Perm
      [opcLdi, opcPrn, opcHlt, opcAdd, c.opcMul, c.opcPush, c.opcPop, c.opcCall, c.opcRet] :=
    (((List.Perm.swap _ _ _).cons _).cons _).cons _
  exact hperm.nodup_iff.mpr hdistinct

/-- Where the keys of a list of pairs are distinct, a lookup finds every pair of it. -/
theorem lookup_eq_some_of_mem {rows : List (Byte × Instr)} (hdistinct : (rows.map Prod.fst).Nodup)
    (h : (opc, i) ∈ rows) : rows.lookup opc = some i := by
  obtain ⟨before, after, rfl⟩ := List.append_of_mem h
  refine List.lookup_eq_some_iff.mpr ⟨before, after, rfl, fun row hrow => ?_⟩
  rw [List.map_append, List.nodup_append] at hdistinct
  obtain ⟨-, -, hdisjoint⟩ := hdistinct
  have hne : row.1 ≠ opc := hdisjoint _ (List.mem_map_of_mem hrow) _ (by simp)
  simpa using hne.symm

/-- Under legal parameters three bytes decode to exactly the instruction whose opcode byte and operand bytes they begin
with (30_encoding.md R45, R52). -/
theorem decode_eq_ok (hc : c.Legal) :
    decode c opc a b = .ok i ↔ opc = opcode c i ∧ operandBytes i <+: [a, b] := by
  rw [← mem_dispatchTable]
  exact ⟨mem_dispatchTable_of_decode, fun h =>
    decode_eq_ok_iff_lookup.mpr (lookup_eq_some_of_mem (nodup_dispatchTable_opcodes hc) h)⟩

/-- An instruction has at most two operand bytes, so they stand at the front of the two bytes behind its opcode byte
(30_encoding.md R45). -/
theorem operandBytes_prefix (i : Instr) (rest : List Byte) :
    operandBytes i <+: [(operandBytes i ++ rest).getD 0 0, (operandBytes i ++ rest).getD 1 0] := by
  cases i <;> simp [operandBytes, List.cons_prefix_cons]

end Decoder

/-- Settles O12: the bytes of an encoding begin with its opcode byte and its operand bytes. -/
theorem decodeInvertsEncode : Obligations.DecodeInvertsEncode :=
  fun _ hc i rest => (decode_eq_ok hc).mpr ⟨rfl, operandBytes_prefix i rest⟩

/-- Settles O11: the decoder's rule at the nine opcode bytes of this hardware. -/
theorem dispatchByWholeOpcodeByte : Obligations.DispatchByWholeOpcodeByte := by
  intro opc a b
  refine ⟨fun i => ?_, fun hopc => decode_eq_error.mpr ⟨hopc, rfl⟩⟩
  rw [decode_eq_ok hardware_legal]
  cases i <;>
    simp [opcode, operandBytes, List.cons_prefix_cons, opcLdi, opcPrn, opcHlt, opcAdd, hardware, eq_comm]

/-- Settles O13: what decodes is a row of the table, and a row's operand bytes begin the latch. -/
theorem encodeInvertsDecode : Obligations.EncodeInvertsDecode := by
  intro c opc a b i h
  obtain ⟨rfl, unused, hlatch⟩ := mem_dispatchTable.mp (mem_dispatchTable_of_decode h)
  exact ⟨unused, congrArg (opcode c i :: ·) hlatch.symm⟩

/-- Settles O14: each word is the encoding of its instruction. -/
theorem wordsDecodeAsSpelt : Obligations.WordsDecodeAsSpelt := by
  have hdecode (i : Instr) : decodeBytes hardware (encode hardware i) = .ok i := by
    simpa using decodeInvertsEncode hardware hardware_legal i []
  exact ⟨hdecode (.ldi 0#8 8#8), hdecode (.add 0#8 1#8), hdecode (.mul 7#8 0#8), hdecode (.prn 0#8),
    hdecode (.push 7#8), hdecode (.call 1#8), hdecode .hlt, hdecode .ret⟩

/-! ### The handlers and the encoding -/

section Handlers

variable {c : Config} {i : Instr} {a b r : Byte} {s t : State}

/-- An instruction that completes, other than a transfer of control, advances `pc` by the length of its encoding
(30_encoding.md R50). -/
theorem Completed.pc_eq (h : Completed c s i t) (hcall : ∀ a, i ≠ .call a) (hret : i ≠ .ret) :
    t.pc = s.pc + (encode c i).length := by
  cases h with
  | call => exact absurd rfl (hcall _)
  | ret => exact absurd rfl hret
  | _ => rfl

/-- No check raises a register fault for a well-formed instruction: its operands pass, and the others raise the stack's
(30_encoding.md R55). -/
theorem CheckFails.ne_registerFault {e : FaultCause} (h : CheckFails c s i e) (hi : i.WellFormed) (v : Int) :
    e ≠ .outOfBounds .reg v := by
  cases h with
  | register hq he => exact absurd he (regOperand_ne_error hi hq)
  | pushNoCell he | callNoCell he => simp [(pushSlot_eq_error.mp he).2]
  | popNoCell he | retNoCell he => simp [(popSlot_eq_error.mp he).2]
  | popOverflow _ _ he | retOverflow he => simp [(incrementable_eq_error.mp he).2]

/-- A handler that checks one register operand first raises that operand's fault when it is bad (60_exceptions.md
R93). -/
theorem check_firstBad {go : Reg → Result} (h : [a].find? (fun q => decide (8 ≤ q.toNat)) = some r) :
    s.check (regOperand a) go = .next (s.raise (.outOfBounds .reg r.toNat)) := by
  obtain ⟨hbad, rfl⟩ : 8 ≤ a.toNat ∧ a = r := by simpa using h
  rw [regOperand_eq_error.mpr ⟨hbad, rfl⟩, State.check_error]

/-- A handler that checks two register operands in order raises the fault of the first bad one (60_exceptions.md
R93). -/
theorem check_firstBad_pair {go : Reg → Reg → Result}
    (h : [a, b].find? (fun q => decide (8 ≤ q.toNat)) = some r) :
    (s.check (regOperand a) fun d => s.check (regOperand b) fun q => go d q) =
      .next (s.raise (.outOfBounds .reg r.toNat)) := by
  by_cases ha : 8 ≤ a.toNat
  · exact check_firstBad (by simpa [ha] using h)
  · have hok : regOperand a = .ok ⟨a.toNat, by omega⟩ := regOperand_eq_ok.mpr rfl
    rw [hok, State.check_ok]
    exact check_firstBad (by simpa [ha] using h)

end Handlers

/-- Settles O15: without a fault the handler has completed. -/
theorem pcAdvancesByEncodedLength : Obligations.PcAdvancesByEncodedLength := by
  intro i s t hcall hret _ h ht
  obtain ⟨e, -, rfl⟩ | hdone := exec_next h
  · exact absurd rfl ht
  · exact hdone.pc_eq hcall hret

/-- Settles O28: every handler checks its register operands before all else, in order. -/
theorem firstBadRegisterOperandFaults : Obligations.FirstBadRegisterOperandFaults := by
  intro i s r h
  cases i with
  | hlt | ret => cases h
  | mul a b | add a b => exact check_firstBad_pair h
  | ldi a _ | prn a | push a | pop a | call a => exact check_firstBad h

/-- Settles O29: a failed check is no register operand's, and a handler that completes records no fault. -/
theorem wellFormedRaisesNoRegisterFault : Obligations.WellFormedRaisesNoRegisterFault := by
  intro i s t hi hnone h v p hfault
  obtain ⟨e, he, rfl⟩ | hdone := exec_next h
  · obtain ⟨rfl, -⟩ : e = .outOfBounds .reg v ∧ s.pc = p := by simpa using hfault
    exact he.ne_registerFault hi v rfl
  · simp [hdone.fault_eq, hnone] at hfault

/-! ### What the assembler's readers accept -/

/-- A digit's value is below the base. -/
theorem digit?_lt {base : Nat} {ch : Char} {d : Nat} (h : digit? base ch = some d) : d < base := by
  simp only [digit?, Option.ite_none_right_eq_some, Option.some.injEq] at h
  exact h.2 ▸ h.1

/-- A register that the assembler reads is 0 to 7 (30_encoding.md R57). -/
theorem register?_lt {cs : List Char} {r : Byte} (h : register? cs = some r) : r.toNat < 8 := by
  unfold register? at h
  split at h
  · simp only [Option.ite_none_right_eq_some, Option.map_eq_some_iff] at h
    obtain ⟨-, d, hd, rfl⟩ := h
    have hlt := digit?_lt hd
    rw [BitVec.toNat_ofNat]
    omega
  · cases h

/-- The forms take their register operands from `register?` alone, so what they give is well formed (30_encoding.md
R57). -/
theorem form?_wellFormed {mnemonic : List Char} {operands : List (List Char)} {i : Instr}
    (h : form? mnemonic operands = some i) : i.WellFormed := by
  unfold form? at h
  split at h
  · split_ifs at h <;> cases h <;> exact nofun
  · obtain ⟨a, ha, h⟩ := Option.bind_eq_some_iff.mp h
    have hreg : i.registerOperands = [a] := by
      split_ifs at h <;> cases h <;> rfl
    simpa [Instr.WellFormed, hreg] using register?_lt ha
  · next second =>
    obtain ⟨a, ha, h⟩ := Option.bind_eq_some_iff.mp h
    have hreg : i.registerOperands = [a] ∨ ∃ b, register? second = some b ∧ i.registerOperands = [a, b] := by
      split_ifs at h <;> obtain ⟨b, hb, rfl⟩ := Option.map_eq_some_iff.mp h
      · exact .inl rfl
      · exact .inr ⟨b, hb, rfl⟩
      · exact .inr ⟨b, hb, rfl⟩
    obtain hreg | ⟨b, hb, hreg⟩ := hreg
    · simpa [Instr.WellFormed, hreg] using register?_lt ha
    · simpa [Instr.WellFormed, hreg] using ⟨register?_lt ha, register?_lt hb⟩
  · cases h

/-- Settles O17: a line gives only what a form gives. -/
theorem assemblerGivesWellFormedInstructions : Obligations.AssemblerGivesWellFormedInstructions :=
  fun _ _ h => form?_wellFormed h

/-! ### The assembler reads what `render` writes -/

/-- The character of a decimal digit reads as that digit. -/
theorem digit?_digitChar {base n : Nat} (hn : n < 10) (h : n < base) : digit? base (digitChar n) = some n := by
  have hcode : (digitChar n).toUpper.toNat = 48 + n := by
    interval_cases n <;> rfl
  have hrange : 48 ≤ 48 + n ∧ 48 + n ≤ 57 := by omega
  simp [digit?, hcode, hrange, h]

/-- A register's text reads as that register (30_encoding.md R57). -/
theorem register?_registerText {r : Byte} (h : r.toNat < 8) : register? (registerText r) = some r := by
  have hr : 'r'.toUpper = 'R' := rfl
  simp [register?, registerText, hr, digit?_digitChar (by omega) h]

/-- No decimal digit is a comma or the `x` of `0x`. -/
theorem digitChar_ne {n : Nat} (hn : n < 10) : ',' ≠ digitChar n ∧ 'x' ≠ digitChar n := by
  interval_cases n <;> decide

/-- A text of decimal digits reads as the number they write, first digit first. -/
theorem digits?_map_digitChar (n : Nat) {ds : List Nat} (hds : ∀ d ∈ ds, d < 10) :
    digits? 10 n (ds.map digitChar) = some (ds.foldl (fun m d => m * 10 + d) n) := by
  induction ds generalizing n with
  | nil => rfl
  | cons d ds ih =>
    obtain ⟨hd, hds⟩ := List.forall_mem_cons.mp hds
    simp only [List.map_cons, digits?, digit?_digitChar hd hd, List.foldl_cons]
    exact ih _ hds

/-- The text of a byte consists of the decimal digits of its value. -/
theorem decimal_eq_digits (v : Byte) : ∃ ds : List Nat, ds ≠ [] ∧ (∀ d ∈ ds, d < 10) ∧
    decimal v = ds.map digitChar ∧ ds.foldl (fun m d => m * 10 + d) 0 = v.toNat := by
  have hv : v.toNat < 256 := v.isLt
  simp only [decimal]
  split_ifs with hone htwo
  · exact ⟨[v.toNat], by simp, by simpa, rfl, by simp⟩
  · exact ⟨[v.toNat / 10, v.toNat % 10], by simp, by simp; omega, rfl, by simp; omega⟩
  · exact ⟨[v.toNat / 100, v.toNat / 10 % 10, v.toNat % 10], by simp, by simp; omega, rfl, by simp; omega⟩

theorem comma_notMem_decimal (v : Byte) : ',' ∉ decimal v := by
  obtain ⟨ds, -, hds, htext, -⟩ := decimal_eq_digits v
  rw [htext, List.mem_map]
  rintro ⟨d, hd, hch⟩
  exact (digitChar_ne (hds d hd)).1 hch.symm

theorem comma_notMem_registerText {r : Byte} (h : r.toNat < 8) : ',' ∉ registerText r := by
  simp [registerText, (digitChar_ne (n := r.toNat) (by omega)).1]

/-- A text without an `x` is no hexadecimal number (30_encoding.md R57). -/
theorem immediate?_of_notMem {cs : List Char} (h : 'x' ∉ cs) : immediate? cs = byte? 10 cs := by
  unfold immediate?
  split
  · simp at h
  · rfl

/-- The decimal text of a byte reads as that byte (30_encoding.md R57). -/
theorem immediate?_decimal (v : Byte) : immediate? (decimal v) = some v := by
  obtain ⟨ds, hne, hds, htext, hvalue⟩ := decimal_eq_digits v
  have hx : 'x' ∉ decimal v := by
    rw [htext, List.mem_map]
    rintro ⟨d, hd, hch⟩
    exact (digitChar_ne (hds d hd)).2 hch.symm
  have hdigits : digits? 10 0 (decimal v) = some v.toNat := by
    rw [htext, digits?_map_digitChar 0 hds, hvalue]
  obtain ⟨ch, rest, hcons⟩ : ∃ ch rest, decimal v = ch :: rest :=
    List.exists_cons_of_ne_nil (by simpa [htext] using hne)
  rw [immediate?_of_notMem hx]
  rw [hcons] at hdigits ⊢
  simp [byte?, hdigits, v.isLt]

theorem splitCommas_ne_nil (cs : List Char) : splitCommas cs ≠ [] := by
  cases cs with
  | nil => simp [splitCommas]
  | cons ch rest =>
    rw [splitCommas]
    split
    · simp
    · split_ifs <;> simp

/-- A character that is no comma joins the word behind it. -/
theorem splitCommas_cons {ch : Char} {rest word : List Char} {words : List (List Char)} (hch : ',' ≠ ch)
    (h : splitCommas rest = word :: words) : splitCommas (ch :: rest) = (ch :: word) :: words := by
  simp [splitCommas, h, hch.symm]

/-- A comma ends a word. -/
theorem splitCommas_comma_cons (rest : List Char) : splitCommas (',' :: rest) = [] :: splitCommas rest := by
  obtain ⟨word, words, h⟩ := List.exists_cons_of_ne_nil (splitCommas_ne_nil rest)
  simp [splitCommas, h]

/-- A text without a comma is one word. -/
theorem splitCommas_of_notMem {word : List Char} (h : ',' ∉ word) : splitCommas word = [word] := by
  induction word with
  | nil => rfl
  | cons ch word ih =>
    obtain ⟨hch, hword⟩ := List.ne_and_not_mem_of_not_mem_cons h
    exact splitCommas_cons hch (ih hword)

/-- The first comma ends the first word. -/
theorem splitCommas_append_comma {word : List Char} (h : ',' ∉ word) (rest : List Char) :
    splitCommas (word ++ ',' :: rest) = word :: splitCommas rest := by
  induction word with
  | nil => exact splitCommas_comma_cons rest
  | cons ch word ih =>
    obtain ⟨hch, hword⟩ := List.ne_and_not_mem_of_not_mem_cons h
    exact splitCommas_cons hch (ih hword)

/-- The first space ends the mnemonic. -/
theorem splitLine_append_space {mnemonic : List Char} (h : ' ' ∉ mnemonic) (operands : List Char) :
    splitLine (mnemonic ++ ' ' :: operands) = (mnemonic, splitCommas operands) := by
  induction mnemonic with
  | nil => simp [splitLine]
  | cons ch mnemonic ih =>
    obtain ⟨hch, hmnemonic⟩ := List.ne_and_not_mem_of_not_mem_cons h
    simp [splitLine, hch.symm, ih hmnemonic]

/-- A text without a space is a mnemonic alone. -/
theorem splitLine_of_notMem {mnemonic : List Char} (h : ' ' ∉ mnemonic) : splitLine mnemonic = (mnemonic, []) := by
  induction mnemonic with
  | nil => rfl
  | cons ch mnemonic ih =>
    obtain ⟨hch, hmnemonic⟩ := List.ne_and_not_mem_of_not_mem_cons h
    simp [splitLine, hch.symm, ih hmnemonic]

/-- Words without a comma, joined by commas, split into the words. -/
theorem splitCommas_intercalate {word : List Char} {words : List (List Char)}
    (h : ∀ w ∈ word :: words, ',' ∉ w) : splitCommas ([','].intercalate (word :: words)) = word :: words := by
  induction words generalizing word with
  | nil => simpa using splitCommas_of_notMem (h word (by simp))
  | cons next words ih =>
    obtain ⟨hword, hwords⟩ := List.forall_mem_cons.mp h
    rw [List.intercalate_cons_cons, List.append_assoc, List.singleton_append, splitCommas_append_comma hword,
      ih hwords]

/-- A line of the form of 30_encoding.md R57: the mnemonic and, where there are operands, a space and the operands with
commas between them. `render_eq_lineText` ties it to `render`. -/
def lineText (mnemonic : List Char) : List (List Char) → List Char
  | [] => mnemonic
  | word :: words => mnemonic ++ ' ' :: [','].intercalate (word :: words)

/-- A line splits into the mnemonic and the operand texts it was made of. -/
theorem splitLine_lineText {mnemonic : List Char} {words : List (List Char)} (hm : ' ' ∉ mnemonic)
    (hwords : ∀ w ∈ words, ',' ∉ w) : splitLine (lineText mnemonic words) = (mnemonic, words) := by
  cases words with
  | nil => exact splitLine_of_notMem hm
  | cons word words => rw [lineText, splitLine_append_space hm, splitCommas_intercalate hwords]

/-- The mnemonic that `render` writes (`render_eq_lineText`). -/
def mnemonicText : Instr → List Char
  | .ldi _ _ => ['L', 'D', 'I']
  | .prn _ => ['P', 'R', 'N']
  | .hlt => ['H', 'L', 'T']
  | .mul _ _ => ['M', 'U', 'L']
  | .add _ _ => ['A', 'D', 'D']
  | .push _ => ['P', 'U', 'S', 'H']
  | .pop _ => ['P', 'O', 'P']
  | .call _ => ['C', 'A', 'L', 'L']
  | .ret => ['R', 'E', 'T']

/-- The operand texts that `render` writes (`render_eq_lineText`): of all forms, LDI alone has one
that is no register. -/
def operandTexts : Instr → List (List Char)
  | .ldi a b => [registerText a, decimal b]
  | i => i.registerOperands.map registerText

theorem render_eq_lineText (i : Instr) : render i = lineText (mnemonicText i) (operandTexts i) := by
  cases i <;> simp [render, lineText, mnemonicText, operandTexts, Instr.registerOperands, List.intercalate]

theorem space_notMem_mnemonicText (i : Instr) : ' ' ∉ mnemonicText i := by
  cases i <;> simp [mnemonicText]

theorem map_toUpper_mnemonicText (i : Instr) : (mnemonicText i).map Char.toUpper = mnemonicText i := by
  cases i <;> rfl

/-- Every operand text is a register operand's or a byte in decimal. -/
theorem mem_operandTexts {i : Instr} {word : List Char} (h : word ∈ operandTexts i) :
    (∃ r ∈ i.registerOperands, word = registerText r) ∨ ∃ b, word = decimal b := by
  cases i with
  | ldi a b =>
    obtain rfl | rfl : word = registerText a ∨ word = decimal b := by simpa [operandTexts] using h
    · exact .inl ⟨a, by simp [Instr.registerOperands], rfl⟩
    · exact .inr ⟨b, rfl⟩
  | _ =>
    obtain ⟨r, hr, rfl⟩ := List.mem_map.mp h
    exact .inl ⟨r, hr, rfl⟩

theorem comma_notMem_operandTexts {i : Instr} (hi : i.WellFormed) : ∀ word ∈ operandTexts i, ',' ∉ word := by
  intro word hword
  obtain ⟨r, hr, rfl⟩ | ⟨b, rfl⟩ := mem_operandTexts hword
  · exact comma_notMem_registerText (hi r hr)
  · exact comma_notMem_decimal b

/-- Each form reads its own mnemonic and operand texts (30_encoding.md R58). -/
theorem form?_mnemonicText_operandTexts {i : Instr} (hi : i.WellFormed) :
    form? (mnemonicText i) (operandTexts i) = some i := by
  have hreg : ∀ r ∈ i.registerOperands, register? (registerText r) = some r :=
    fun r hr => register?_registerText (hi r hr)
  cases i with
  | hlt | ret => rfl
  | ldi a b =>
    have ha := hreg a List.mem_cons_self
    simp [form?, mnemonicText, operandTexts, ha, immediate?_decimal]
  | mul a b | add a b =>
    have ha := hreg a List.mem_cons_self
    have hb := hreg b (List.mem_cons_of_mem _ List.mem_cons_self)
    simp [form?, mnemonicText, operandTexts, Instr.registerOperands, ha, hb]
  | prn a | push a | pop a | call a =>
    have ha := hreg a List.mem_cons_self
    simp [form?, mnemonicText, operandTexts, Instr.registerOperands, ha]

/-- Settles O16: the rendered line splits into its mnemonic and operand texts, and its form reads them. -/
theorem assemblerReadsRenderedLine : Obligations.AssemblerReadsRenderedLine := by
  intro i hi
  have hsplit : splitLine (render i) = (mnemonicText i, operandTexts i) := by
    rw [render_eq_lineText, splitLine_lineText (space_notMem_mnemonicText i) (comma_notMem_operandTexts hi)]
  rw [assembleLine, hsplit, map_toUpper_mnemonicText, form?_mnemonicText_operandTexts hi]

end Sys2Proof.Machine
end

section
/-! PROOFS of the statements about the engine (40_engine.md). `engineStep` answers in one of three ways, one lemma each:
the block has stopped, the fetch faults, or the fetched instruction is run. -/

namespace Sys2Proof.Machine

section EngineStep

variable {c : Config} {run : Instr → State → Result} {i : Instr} {s : State}

theorem engineStep_of_stopped (hs : s.status ≠ .running) : engineStep c run s = .next s := if_neg hs

/-- The fault of the fetch or of the dispatcher is raised with the load window closed (40_engine.md R61, R64). -/
theorem engineStep_of_fetch_error {e : FaultCause} (hs : s.status = .running) (he : fetch c s = .error e) :
    engineStep c run s = .next (s.closeLoad.raise e) := by
  rw [engineStep, if_pos hs, he, State.check_error]

theorem engineStep_of_fetch_ok (hs : s.status = .running) (hi : fetch c s = .ok i) :
    engineStep c run s = run i s.closeLoad := by
  rw [engineStep, if_pos hs, hi, State.check_ok]

/-- The converse of `pc_le_of_fetchable`. -/
theorem fetchable_of_pc_le (h : s.pc + 2 ≤ 254) : s.fetchable hardware := Nat.lt_succ_of_le h

end EngineStep

/-- Settles O4: a step that is not enabled is the engine step of a stopped block, at the handlers of this hardware. -/
theorem disabledStepDoesNothing : Obligations.DisabledStepDoesNothing :=
  fun _ hs => engineStep_of_stopped hs

/-- Settles O1: the fetch grants the decoded instruction. -/
theorem stepRunsDecodedInstruction : Obligations.StepRunsDecodedInstruction :=
  fun _ _ hs hpc hdecode => engineStep_of_fetch_ok hs (fetch_eq_ok.mpr ⟨fetchable_of_pc_le hpc, hdecode⟩)

/-- Settles O3: the decoder refuses a byte that no row of the dispatch table has, and the dispatcher reports it. -/
theorem unrecognizedOpcodeStops : Obligations.UnrecognizedOpcodeStops := by
  intro s hs hpc hopc
  have hdecode : s.decodeAtPc hardware = .error (.unrecognizedOpcode (s.mem.read s.pc)) :=
    decode_eq_error.mpr ⟨hopc, rfl⟩
  have hfetch : fetch hardware s = .error (.unrecognizedOpcode (s.mem.read s.pc)) :=
    fetch_eq_error.mpr (.inr ⟨fetchable_of_pc_le hpc, _, hdecode, rfl⟩)
  exact engineStep_of_fetch_error hs hfetch

/-- Where one of the three fetch addresses is no cell, `lowestInvalid` is the least such address (40_engine.md R61). -/
theorem lowestInvalid_isLeast {c : Config} {pc : Nat} (h : c.memSize ≤ pc + 2) :
    IsLeast {n | (n = pc ∨ n = pc + 1 ∨ n = pc + 2) ∧ c.memSize ≤ n} (lowestInvalid c pc) := by
  unfold lowestInvalid
  split_ifs with h₀ h₁
  · exact ⟨⟨.inl rfl, h₀⟩, fun m ⟨hm, _⟩ => by omega⟩
  · exact ⟨⟨.inr (.inl rfl), h₁⟩, fun m ⟨hm, _⟩ => by omega⟩
  · exact ⟨⟨.inr (.inr rfl), h⟩, fun m ⟨hm, _⟩ => by omega⟩

/-- Settles O2: the address recorded is `lowestInvalid`. -/
theorem fetchOutsideWindowFaults : Obligations.FetchOutsideWindowFaults := by
  intro s hs hpc
  obtain ⟨⟨haddress, hinvalid⟩, hleast⟩ := lowestInvalid_isLeast (c := hardware) hpc
  have hfetch : fetch hardware s = .error (.outOfBounds .fetch (lowestInvalid hardware s.pc)) :=
    fetch_eq_error.mpr (.inl ⟨fun hwindow => (pc_le_of_fetchable hwindow).not_gt hpc, rfl⟩)
  exact ⟨lowestInvalid hardware s.pc, haddress, hinvalid, fun m hm hcell => hleast ⟨hm, hcell⟩,
    engineStep_of_fetch_error hs hfetch⟩

/-! ### Runs of a stopped block -/

/-- A run whose first step answers a next state goes on from there. -/
theorem run_succ_of_next {M : Host.Core} {s t : M.State} (h : M.step s = .next t) (n : Nat) :
    M.run (n + 1) s = M.run n t := by
  rw [Host.Core.run, h]

/-- Settles O5, by induction on the number of steps: each answers the same state. -/
theorem stoppedRunStaysAsItIs : Obligations.StoppedRunStaysAsItIs := by
  intro s n hs
  induction n with
  | zero => rfl
  | succ n ih =>
    have hstep : core.step s = .next s := disabledStepDoesNothing s hs
    exact (run_succ_of_next hstep n).trans ih

/-- Settles O55: the two branches of the read-back. -/
theorem readBackOnlyWhenStopped : Obligations.ReadBackOnlyWhenStopped :=
  fun _ => ⟨fun hs => if_pos hs, fun hs => if_neg hs⟩

/-! ### Every step answers a next state -/

section Completion

variable {c : Config} {a b : Byte} {s : State}

/-- A check that fails answers a next state, so only what follows a granted one can fail to. -/
theorem State.check_completes {α : Type} {granted : Except FaultCause α} {go : α → Result}
    (hgo : ∀ v, ∃ t, go v = .next t) : ∃ t, s.check granted go = .next t := by
  cases granted with
  | error e => exact ⟨s.raise e, rfl⟩
  | ok v => exact hgo v

theorem aluInstruction_completes (op : AluOp) : ∃ t, aluInstruction op a b s = .next t :=
  State.check_completes fun _ => State.check_completes fun _ => State.check_completes fun _ => ⟨_, rfl⟩

/-- CALL is the one handler with an answer that is no next state; a return address that is a byte keeps it from it (log
entry 6). -/
theorem callWith_completes (hpc : s.pc + 2 ≤ 255) : ∃ t, callWith c a s = .next t :=
  State.check_completes fun _ => State.check_completes fun _ => ⟨_, if_neg (Nat.not_lt.mpr hpc)⟩

theorem handleWith_completes (i : Instr) (hpc : s.pc + 2 ≤ 255) : ∃ t, handleWith c i s = .next t := by
  cases i with
  | ldi a b => exact State.check_completes fun _ => ⟨_, rfl⟩
  | prn a => exact State.check_completes fun _ => ⟨_, rfl⟩
  | hlt => exact ⟨_, rfl⟩
  | mul a b => exact aluInstruction_completes .mul
  | add a b => exact aluInstruction_completes .add
  | push a => exact State.check_completes fun _ => State.check_completes fun _ => ⟨_, rfl⟩
  | pop a =>
    exact State.check_completes fun _ => State.check_completes fun _ => State.check_completes fun _ => ⟨_, rfl⟩
  | call a => exact callWith_completes hpc
  | ret => exact State.check_completes fun _ => State.check_completes fun _ => ⟨_, rfl⟩

end Completion

/-- Settles O6: the fetch window of at most 256 cells keeps CALL's return address a byte. -/
theorem everyStepCompletes : Obligations.EveryStepCompletes := by
  intro c ⟨_, hcells, _⟩ s
  by_cases hs : s.status = .running
  · cases hfetch : fetch c s with
    | error e => exact ⟨_, engineStep_of_fetch_error hs hfetch⟩
    | ok i =>
      obtain ⟨hwindow, -⟩ := fetch_eq_ok.mp hfetch
      have hpc : s.closeLoad.pc + 2 ≤ 255 := Nat.le_of_lt_succ (hwindow.trans_le hcells)
      obtain ⟨t, ht⟩ := handleWith_completes (c := c) i hpc
      exact ⟨t, (engineStep_of_fetch_ok hs hfetch).trans ht⟩
  · exact ⟨s, engineStep_of_stopped hs⟩

end Sys2Proof.Machine
end

section
/-! PROOFS of the statements about the ALU (41_alu.md). `aluInstruction` answers in one of three ways, one lemma each:
the first operand is bad, the second is, or both name registers and the ALU's answer stands. ADD and MUL are its two
uses. -/

namespace Sys2Proof.Machine

/-! ### The ALU alone -/

/-- Writing a result out modulo 256 changes nothing: the byte wraps (41_alu.md R78). -/
theorem byte_ofNat_mod_256 (n : Nat) : BitVec.ofNat 8 (n % 256) = BitVec.ofNat 8 n :=
  BitVec.eq_of_toNat_eq (by simp)

section Alu

variable {op : AluOp} {a b : Byte} {d r : Reg} {s t : State}

theorem alu_add (d r : Reg) (s : State) :
    alu .add d r s = .ok (s.setReg d (BitVec.ofNat 8 (((s.reg d).toNat + (s.reg r).toNat) % 256))) := by
  rw [byte_ofNat_mod_256, alu, wrapAdd]

theorem alu_mul (d r : Reg) (s : State) :
    alu .mul d r s = .ok (s.setReg d (BitVec.ofNat 8 (((s.reg d).toNat * (s.reg r).toNat) % 256))) := by
  rw [byte_ofNat_mod_256, alu, wrapMul]

/-- Whatever the operation, an ALU that answers has done one register write (41_alu.md R77). -/
theorem alu_ok_setReg (h : alu op d r s = .ok t) : ∃ v, t = s.setReg d v := by
  obtain ⟨-, ht⟩ | ⟨-, ht⟩ := alu_ok h
  · exact ⟨_, ht⟩
  · exact ⟨_, ht⟩

/-- A register that was written with a number modulo 256 reads back as that number. -/
theorem State.setReg_ofNat_mod_256_toNat (s : State) (d : Reg) (n : Nat) :
    ((s.setReg d (BitVec.ofNat 8 (n % 256))).reg d).toNat = n % 256 := by
  simp [State.setReg_reg]

/-! ### The instructions on two register operands -/

theorem aluInstruction_of_bad_dest (ha : 8 ≤ a.toNat) :
    aluInstruction op a b s = .next (s.raise (.outOfBounds .reg a.toNat)) :=
  check_firstBad_pair (by simp [ha])

theorem aluInstruction_of_bad_src (ha : a.toNat < 8) (hb : 8 ≤ b.toNat) :
    aluInstruction op a b s = .next (s.raise (.outOfBounds .reg b.toNat)) :=
  check_firstBad_pair (by simp [ha, hb])

theorem aluInstruction_of_alu_ok (ha : a.toNat = d.val) (hb : b.toNat = r.val) (ht : alu op d r s = .ok t) :
    aluInstruction op a b s = .next (t.advance 3) := by
  rw [aluInstruction, regOperand_eq_ok.mpr ha, State.check_ok, regOperand_eq_ok.mpr hb, State.check_ok, ht,
    State.check_ok]

/-- Outside the fetch window of this hardware no instruction is granted (40_engine.md R61). -/
theorem fetch_hardware_of_outside (hpc : 254 < s.pc + 2) :
    fetch hardware s = .error (.outOfBounds .fetch (lowestInvalid hardware s.pc)) :=
  fetch_eq_error.mpr (.inl ⟨fun hwindow => (pc_le_of_fetchable hwindow).not_gt hpc, rfl⟩)

end Alu

/-- Settles O21: the ALU instruction whose operation is ADD. -/
theorem addWritesSumModulo256 : Obligations.AddWritesSumModulo256 :=
  fun _ _ s => ⟨rfl, fun hpc => ⟨_, fetch_hardware_of_outside hpc⟩, aluInstruction_of_bad_dest,
    aluInstruction_of_bad_src, fun d r ha hb => aluInstruction_of_alu_ok ha hb (alu_add d r s)⟩

/-- Settles O22: the ALU instruction whose operation is MUL. -/
theorem mulWritesProductModulo256 : Obligations.MulWritesProductModulo256 :=
  fun _ _ s => ⟨rfl, aluInstruction_of_bad_dest, aluInstruction_of_bad_src,
    fun d r ha hb => aluInstruction_of_alu_ok ha hb (alu_mul d r s)⟩

/-- Settles O32: one register write leaves every other register and every other field alone. -/
theorem aluWritesOnlyDestination : Obligations.AluWritesOnlyDestination := by
  intro op d r s t h
  obtain ⟨v, rfl⟩ := alu_ok_setReg h
  refine ⟨fun j hj => ?_, rfl, rfl, rfl, rfl, rfl, rfl, rfl⟩
  rw [State.setReg_reg, if_neg hj.symm]

/-- Settles O30: the ALU's last case, by definition. -/
theorem aluRejectsOtherOperations : Obligations.AluRejectsOtherOperations := fun _ _ _ _ => rfl

/-- Settles O33: the ALU has written the destination with the number itself. -/
theorem aluResultsAreExactModulo256 : Obligations.AluResultsAreExactModulo256 :=
  fun d r s => ⟨⟨_, alu_add d r s, s.setReg_ofNat_mod_256_toNat d _⟩,
    ⟨_, alu_mul d r s, s.setReg_ofNat_mod_256_toNat d _⟩⟩

end Sys2Proof.Machine
end

section
/-! PROOFS of the statements about register input and output (42_register_io.md). LDI and PRN have one check, that of
their register operand: where it fails `check_firstBad` gives the answer, and where it passes there is one lemma each. -/

namespace Sys2Proof.Machine

section RegisterIo

variable {a : Byte} {r : Reg}

theorem execLdi_of_register (ha : a.toNat = r.val) (b : Byte) (s : State) :
    execLdi a b s = .next ((s.setReg r b).advance 3) := by
  rw [execLdi, regOperand_eq_ok.mpr ha, State.check_ok]

theorem execPrn_of_register (ha : a.toNat = r.val) (s : State) :
    execPrn a s = .next ((s.emit (s.reg r)).advance 2) := by
  rw [execPrn, regOperand_eq_ok.mpr ha, State.check_ok]

end RegisterIo

/-- Settles O18: the operand check of LDI fails or passes. -/
theorem ldiLoadsImmediate : Obligations.LdiLoadsImmediate :=
  fun _ b s => ⟨rfl, fun hpc => ⟨_, fetch_hardware_of_outside hpc⟩, fun ha => check_firstBad (by simp [ha]),
    fun _ ha => execLdi_of_register ha b s⟩

/-- Settles O19: the operand check of PRN fails or passes. -/
theorem prnEmitsRegister : Obligations.PrnEmitsRegister :=
  fun _ s => ⟨rfl, fun hpc => ⟨_, fetch_hardware_of_outside hpc⟩, fun ha => check_firstBad (by simp [ha]),
    fun _ ha => execPrn_of_register ha s⟩

/-- Settles O35: PRN raises its operand's fault, or changes only the output and `pc`. -/
theorem prnFrame : Obligations.PrnFrame := by
  intro a s t h
  obtain ⟨e, he, rfl⟩ | ⟨r, -, rfl⟩ := execPrn_next h
  · have hbad : 8 ≤ a.toNat := (regOperand_eq_error.mp he).1
    exact ⟨fun _ => rfl, rfl, rfl, fun _ => rfl, fun ha => absurd hbad ha.not_ge⟩
  · exact ⟨fun _ => rfl, rfl, rfl, fun _ => rfl, fun _ => ⟨rfl, rfl⟩⟩

/-- Settles O42: PRN reads the register that LDI has written, and the two advance `pc` by 3 and by 2. -/
theorem ldiThenPrnEmitsImmediate : Obligations.LdiThenPrnEmitsImmediate := by
  intro a v s ha
  have hr : a.toNat = (⟨a.toNat, ha⟩ : Reg).val := rfl
  exact ⟨_, _, execLdi_of_register hr v s, execPrn_of_register hr _, by simp, rfl⟩

end Sys2Proof.Machine
end

section
/-! PROOFS of the statements about the stack (43_stack.md). A PUSH whose checks pass is `SP_dec` and one store, a POP
whose checks pass is one register write and `SP_inc`; each check that fails has its lemma. A PUSH leaves the byte of its
register at the new `SP`, so a POP of the same register writes it back unchanged and only undoes the `SP_dec`. -/

namespace Sys2Proof.Machine

section Stack

variable {c : Config} {a : Byte} {r : Reg} {s : State}

/-- A register operand of 8 or more is the fault of PUSH and of POP (60_exceptions.md R93). -/
theorem exec_stack_of_bad_register {i : Instr} (hi : i = .push a ∨ i = .pop a) (ha : 8 ≤ a.toNat) :
    exec i s = .next (s.raise (.outOfBounds .reg a.toNat)) := by
  obtain rfl | rfl := hi <;> exact firstBadRegisterOperandFaults _ s a (List.find?_cons_of_pos (decide_eq_true ha))

/-! ### The checks on this hardware -/

theorem pushSlot_of_sp_zero (hsp : s.sp = 0#8) : pushSlot c s = .error (.outOfBounds .stack (-1)) := by
  have hzero : s.sp.toNat = 0 := by rw [hsp]; rfl
  exact pushSlot_eq_error.mpr ⟨.inl (by omega), by rw [hzero]; rfl⟩

theorem popSlot_hardware_of_sp_255 (hsp : s.sp = 255#8) : popSlot hardware s = .error (.outOfBounds .stack 255) := by
  have htop : s.sp.toNat = hardware.memSize := by rw [hsp]; rfl
  exact popSlot_eq_error.mpr ⟨htop.ge, by rw [htop]; rfl⟩

/-- This hardware has a cell at `SP` for every `SP` but 255. -/
theorem popSlot_hardware_of_ne_255 (hsp : s.sp ≠ 255#8) : popSlot hardware s = .ok s.sp.toNat := by
  have hcell : s.sp.toNat < 255 := by bv_omega
  exact popSlot_eq_ok.mpr ⟨hcell, rfl⟩

theorem incrementable_255 : incrementable 255#8 = .error (.outOfBounds .stack 256) := rfl

theorem incrementable_of_ne_255 {v : Byte} (hv : v ≠ 255#8) : incrementable v = .ok () :=
  incrementable_eq_ok.mpr (by bv_omega)

/-! ### POP where its checks pass -/

theorem popWith_of_checks_ok {slot : Nat} (hr : regOperand a = .ok r) (hs : popSlot c s = .ok slot)
    (hinc : incrementable (popIncremented r (s.mem.read slot) s) = .ok ()) :
    popWith c a s = .next ((s.setReg r (s.mem.read slot)).spInc.advance 2) := by
  rw [popWith, hr, State.check_ok, hs, State.check_ok, hinc, State.check_ok]

/-- POP on this hardware, `SP` below 255, where the byte about to be incremented is below 255 as well. -/
theorem execPop_of_ne_255 (hr : regOperand a = .ok r) (hsp : s.sp ≠ 255#8)
    (hinc : popIncremented r (s.mem.read s.sp.toNat) s ≠ 255#8) :
    exec (.pop a) s = .next ((s.setReg r (s.mem.read s.sp.toNat)).spInc.advance 2) :=
  popWith_of_checks_ok hr (popSlot_hardware_of_ne_255 hsp) (incrementable_of_ne_255 hinc)

/-- The register file a POP of `v` leaves: `SP_inc` increments what `POP r7` has written (43_stack.md R84, decision
D25). -/
theorem State.setReg_spInc (s : State) (r : Reg) (v : Byte) :
    (s.setReg r v).spInc = { s with x := (s.x.set r v).set spIndex (popIncremented r v s + 1#8) } := by
  rw [← setReg_sp_eq_popIncremented]; rfl

/-! ### POP of the byte that its register already holds -/

theorem State.setReg_reg_self (s : State) (r : Reg) : s.setReg r (s.reg r) = s := by
  rw [State.setReg, State.reg, Fin.getElem_fin, Vector.set_getElem_self]

theorem popIncremented_reg_self (s : State) (r : Reg) : popIncremented r (s.reg r) s = s.sp := by
  rw [← setReg_sp_eq_popIncremented, State.setReg_reg_self]

/-- Where the byte at `SP` is the register's own, POP is `SP_inc` alone, for `r7` as for any other register. -/
theorem execPop_of_read_eq_reg (hr : regOperand a = .ok r) (hsp : s.sp ≠ 255#8)
    (hread : s.mem.read s.sp.toNat = s.reg r) : exec (.pop a) s = .next (s.spInc.advance 2) := by
  have hinc : popIncremented r (s.mem.read s.sp.toNat) s ≠ 255#8 := by rwa [hread, popIncremented_reg_self]
  rw [execPop_of_ne_255 hr hsp hinc, hread, State.setReg_reg_self]

/-- `SP_inc` undoes `SP_dec` (10_state.md R16). -/
theorem State.spDec_spInc (s : State) : s.spDec.spInc = s := by
  have hsp : s.spDec.sp + 1#8 = s.sp := by rw [State.spDec_sp, BitVec.sub_add_cancel]
  rw [State.spInc, hsp, State.spDec, State.setReg, State.setReg_x, Vector.set_set]
  exact s.setReg_reg_self spIndex

/-- After a PUSH the byte at the new `SP` is what the pushed register now holds, and `SP_inc` would give the old
registers back (43_stack.md R83, decision D25). -/
theorem execPush_stores_own_register (hr : regOperand a = .ok r) (hsp : s.sp ≠ 0#8) (hwf : s.mem.wf) :
    ∃ t, exec (.push a) s = .next t ∧ t.sp = s.sp - 1#8 ∧ t.mem.read t.sp.toNat = t.reg r ∧
      t.spInc.x = s.x ∧ t.pc = s.pc + 2 := by
  have hslot : s.spDec.sp.toNat = s.sp.toNat - 1 := by rw [State.spDec_sp]; bv_omega
  have hread : (s.mem.write (s.sp.toNat - 1) (s.spDec.reg r)).read s.spDec.sp.toNat = s.spDec.reg r :=
    hslot ▸ Memory.read_write_eq hwf _ _
  have hx : s.spDec.spInc.x = s.x := congrArg State.x s.spDec_spInc
  exact ⟨_, pushWith_of_pushSlot_ok hr (pushSlot_hardware_of_ne_zero hsp), s.spDec_sp, hread, hx, rfl⟩

end Stack

/-- Settles O23: the operand check, then the slot check, then the one store. -/
theorem pushStoresBelowStackPointer : Obligations.PushStoresBelowStackPointer := by
  intro a s
  refine ⟨exec_stack_of_bad_register (.inl rfl), fun r ha => ?_⟩
  have hr : regOperand a = .ok r := regOperand_eq_ok.mpr ha
  refine ⟨fun hsp => pushWith_of_pushSlot_error hr (pushSlot_of_sp_zero hsp), fun hsp => ?_⟩
  rw [← State.spDec_reg_eq_ite]
  exact pushWith_of_pushSlot_ok hr (pushSlot_hardware_of_ne_zero hsp)

/-- Settles O24: the operand check, then the slot check, then the increment check, which looks at the popped byte for
`r7` and at `SP` for any other register. -/
theorem popLoadsFromStackPointer : Obligations.PopLoadsFromStackPointer := by
  intro a s
  refine ⟨exec_stack_of_bad_register (.inr rfl), fun r ha => ?_⟩
  have hr : regOperand a = .ok r := regOperand_eq_ok.mpr ha
  refine ⟨fun hsp => popWith_of_popSlot_error hr (popSlot_hardware_of_sp_255 hsp), ?_, ?_, ?_⟩
  · rintro hsp rfl hread
    refine popWith_of_incrementable_error hr (popSlot_hardware_of_ne_255 hsp) ?_
    rw [popIncremented, if_pos rfl, hread, incrementable_255]
  · rintro hsp rfl hread
    have hinc : popIncremented spIndex (s.mem.read s.sp.toNat) s = s.mem.read s.sp.toNat := if_pos rfl
    rw [execPop_of_ne_255 hr hsp (hinc.trans_ne hread), State.setReg_spInc, hinc, Vector.set_set]
    rfl
  · intro hsp hne
    have hinc : popIncremented r (s.mem.read s.sp.toNat) s = s.sp := if_neg hne
    rw [execPop_of_ne_255 hr hsp (hinc.trans_ne hsp), State.setReg_spInc, hinc]
    rfl

/-- Settles O40: PUSH leaves its register's own byte at the new `SP`, so the POP is the `SP_inc` that gives the old
registers back. -/
theorem pushThenPopRestoresRegisters : Obligations.PushThenPopRestoresRegisters := by
  intro a s ha hsp hwf
  have hr : regOperand a = .ok ⟨a.toNat, ha⟩ := regOperand_eq_ok.mpr rfl
  obtain ⟨t, hpush, htsp, hread, hx, hpc⟩ := execPush_stores_own_register hr hsp hwf
  have hbelow : t.sp ≠ 255#8 := by rw [htsp]; bv_omega
  exact ⟨t, _, hpush, execPop_of_read_eq_reg hr hbelow hread, hx, by rw [State.advance_pc, State.spInc_pc, hpc]⟩

end Sys2Proof.Machine
end

section
/-! PROOFS of the statements about control (44_control.md). A CALL whose checks pass is one store, `SP_dec` and a jump, a
RET whose checks pass is a jump and `SP_inc`; the checks that fail have the lemmas of the stack. A CALL leaves `pc + 2` at
the new `SP`, so a RET right after it jumps there and its `SP_inc` undoes the `SP_dec`. -/

namespace Sys2Proof.Machine

section Control

variable {c : Config} {a : Byte} {r : Reg} {s : State} {slot : Nat}

/-- A register operand of 8 or more is the fault of CALL (60_exceptions.md R93). -/
theorem execCall_of_bad_register (ha : 8 ≤ a.toNat) :
    exec (.call a) s = .next (s.raise (.outOfBounds .reg a.toNat)) :=
  firstBadRegisterOperandFaults _ s a (List.find?_cons_of_pos (decide_eq_true ha))

/-- CALL where both of its checks pass and the return address is a byte (44_control.md R86). -/
theorem callWith_of_checks_ok (hr : regOperand a = .ok r) (hs : pushSlot c s = .ok slot) (hpc : s.pc + 2 ≤ 255) :
    callWith c a s =
      .next ((s.writeMem slot (BitVec.ofNat 8 (s.pc + 2))).spDec.jump (s.spDec.reg r).toNat) := by
  rw [callWith, hr, State.check_ok, hs, State.check_ok, if_neg (Nat.not_lt.mpr hpc)]

/-- The one stop of the model's own: both checks pass and the return address is no byte (log entry 6). -/
theorem callWith_of_wide_returnAddress (hr : regOperand a = .ok r) (hs : pushSlot c s = .ok slot)
    (hpc : 255 < s.pc + 2) : callWith c a s = .fault .returnAddressTooWide := by
  rw [callWith, hr, State.check_ok, hs, State.check_ok, if_pos hpc]

/-- RET where both of its checks pass (44_control.md R87). -/
theorem retWith_of_checks_ok (hs : popSlot c s = .ok slot) (hinc : incrementable s.sp = .ok ()) :
    retWith c s = .next (s.jump (s.mem.read slot).toNat).spInc := by
  rw [retWith, hs, State.check_ok, hinc, State.check_ok]

/-- RET on this hardware completes for every `SP` but 255. -/
theorem execRet_of_ne_255 (hsp : s.sp ≠ 255#8) :
    exec .ret s = .next (s.jump (s.mem.read s.sp.toNat).toNat).spInc :=
  retWith_of_checks_ok (popSlot_hardware_of_ne_255 hsp) (incrementable_of_ne_255 hsp)

/-- After a CALL its return address is the byte at the new `SP`, and `SP_inc` would give the old registers back
(44_control.md R86). -/
theorem execCall_stores_returnAddress (hr : regOperand a = .ok r) (hsp : s.sp ≠ 0#8) (hpc : s.pc + 2 ≤ 255)
    (hwf : s.mem.wf) :
    ∃ t, exec (.call a) s = .next t ∧ t.pc = (s.spDec.reg r).toNat ∧ t.sp = s.sp - 1#8 ∧
      (t.mem.read t.sp.toNat).toNat = s.pc + 2 ∧ t.spInc.x = s.x := by
  have hslot : s.spDec.sp.toNat = s.sp.toNat - 1 := by rw [State.spDec_sp]; bv_omega
  have hread : (s.mem.write (s.sp.toNat - 1) (BitVec.ofNat 8 (s.pc + 2))).read s.spDec.sp.toNat =
      BitVec.ofNat 8 (s.pc + 2) :=
    hslot ▸ Memory.read_write_eq hwf _ _
  have hbyte : (BitVec.ofNat 8 (s.pc + 2)).toNat = s.pc + 2 := by
    rw [BitVec.toNat_ofNat, Nat.mod_eq_of_lt (Nat.lt_succ_of_le hpc)]
  have hx : s.spDec.spInc.x = s.x := congrArg State.x s.spDec_spInc
  exact ⟨_, callWith_of_checks_ok hr (pushSlot_hardware_of_ne_zero hsp) hpc, rfl, s.spDec_sp,
    (congrArg BitVec.toNat hread).trans hbyte, hx⟩

end Control

/-- Settles O25: the operand check, then the slot check, then the width of the return address, then the store and the
jump. -/
theorem callPushesReturnAddressAndJumps : Obligations.CallPushesReturnAddressAndJumps := by
  intro a s
  refine ⟨execCall_of_bad_register, fun r ha => ?_⟩
  have hr : regOperand a = .ok r := regOperand_eq_ok.mpr ha
  refine ⟨fun hsp => callWith_of_pushSlot_error hr (pushSlot_of_sp_zero hsp), fun hsp hpc => ?_, fun hsp hpc => ?_⟩
  · rw [← State.spDec_reg_eq_ite]
    exact callWith_of_checks_ok hr (pushSlot_hardware_of_ne_zero hsp) hpc
  · exact callWith_of_wide_returnAddress hr (pushSlot_hardware_of_ne_zero hsp) hpc

/-- Settles O26: at `SP` = 255 the slot check fails, and below it both checks of RET pass. -/
theorem retPopsReturnAddress : Obligations.RetPopsReturnAddress :=
  fun _ => ⟨fun hsp => retWith_of_popSlot_error (popSlot_hardware_of_sp_255 hsp), fun hsp => execRet_of_ne_255 hsp⟩

/-- Settles O41: CALL leaves its return address at the new `SP`, so the RET jumps there, and its `SP_inc` gives the old
registers back. -/
theorem callThenRetComesBack : Obligations.CallThenRetComesBack := by
  intro a r s ha hsp hpc hwf
  obtain ⟨t, hcall, htarget, htsp, hreturn, hx⟩ :=
    execCall_stores_returnAddress (regOperand_eq_ok.mpr ha) hsp (hpc.trans (Nat.le_succ 254)) hwf
  have hbelow : t.sp ≠ 255#8 := by rw [htsp]; bv_omega
  rw [State.spDec_reg_eq_ite] at htarget
  exact ⟨t, _, hcall, htarget, execRet_of_ne_255 hbelow, hreturn, hx⟩

/-- Settles O20: HLT checks nothing, it advances and halts. -/
theorem hltHalts : Obligations.HltHalts := fun _ => ⟨rfl, rfl⟩

/-- Settles O36: neither the advance nor the halt touches a register, FL, the record, the output, the load bit or
memory. -/
theorem hltFrame : Obligations.HltFrame := by
  intro s t h
  obtain rfl := execHlt_next h
  exact ⟨fun _ => rfl, rfl, rfl, rfl, rfl, fun _ => rfl⟩

end Sys2Proof.Machine
end

section
/-! PROOFS of the statements about exceptions (60_exceptions.md). A step that raises a fault raises it in the old state
with the load window closed, and the fault is the fetch's, the dispatcher's or a failed check's: none of them is the
ALU's. -/

namespace Sys2Proof.Machine

section Causes

variable {c : Config} {i : Instr} {s t : State} {e : FaultCause}

/-- Every check of a handler reports OutOfBounds: no opcode drives the ALU with an operation that it rejects
(60_exceptions.md R91, R92). -/
theorem CheckFails.eq_outOfBounds (h : CheckFails c s i e) : ∃ kind v, e = .outOfBounds kind v := by
  cases h with
  | register _ he => exact ⟨_, _, (regOperand_eq_error.mp he).2⟩
  | pushNoCell he | callNoCell he => exact ⟨_, _, (pushSlot_eq_error.mp he).2⟩
  | popNoCell he | retNoCell he => exact ⟨_, _, (popSlot_eq_error.mp he).2⟩
  | popOverflow _ _ he | retOverflow he => exact ⟨_, _, (incrementable_eq_error.mp he).2⟩

/-- The fetch reports OutOfBounds, the dispatcher UnrecognizedOpcode (60_exceptions.md R90, R92). -/
theorem fetch_error_cases (h : fetch c s = .error e) :
    (∃ kind v, e = .outOfBounds kind v) ∨ ∃ opc, e = .unrecognizedOpcode opc := by
  obtain ⟨-, he⟩ | ⟨-, ⟨opc⟩, -, he⟩ := fetch_eq_error.mp h
  · exact .inl ⟨_, _, he⟩
  · exact .inr ⟨opc, he⟩

/-- A step keeps the fault record, or records one of the two causes that an engine can raise, at the old `pc`
(60_exceptions.md R89 to R92). -/
theorem step_fault_cases (h : step s = .next t) :
    t.fault = s.fault ∨
      ∃ e, t.fault = some { cause := e, pc := s.pc } ∧
        ((∃ kind v, e = .outOfBounds kind v) ∨ ∃ opc, e = .unrecognizedOpcode opc) := by
  obtain ⟨-, rfl⟩ | ⟨-, ⟨e, he, rfl⟩ | ⟨i, -, hx⟩⟩ := engineStep_next h
  · exact .inl rfl
  · exact .inr ⟨e, rfl, fetch_error_cases he⟩
  · obtain ⟨e, he, rfl⟩ | hdone := exec_next hx
    · exact .inr ⟨e, rfl, .inl he.eq_outOfBounds⟩
    · exact .inl hdone.fault_eq

end Causes

/-- Settles O8: the record update that defines the operation. -/
theorem raiseWritesOnlyStatusAndFault : Obligations.RaiseWritesOnlyStatusAndFault := fun _ _ => rfl

/-- Settles O7: an instruction that completes from a running block does not end in ERROR, so the step raised its fault
before any write but the closing of the load window. -/
theorem faultingStepIsPrecise : Obligations.FaultingStepIsPrecise := by
  intro s t hrun h herror
  obtain ⟨hstop, -⟩ | ⟨-, ⟨e, rfl⟩ | ⟨i, -, -, hdone⟩⟩ := step_next h
  · exact absurd hrun hstop
  · exact ⟨e, raiseWritesOnlyStatusAndFault s.closeLoad e⟩
  · have hstart : s.closeLoad.status ≠ .error := by simp [hrun]
    exact absurd herror (hdone.status_ne_error hstart)

/-- Settles O31: a record that was not there before has one of the engine's two causes, and neither is the ALU's. -/
theorem noStepRaisesUnsupportedAlu : Obligations.NoStepRaisesUnsupportedAlu := by
  intro s t hnone h op p hfault
  obtain hkeep | ⟨e, hrecord, ⟨kind, v, rfl⟩ | ⟨opc, rfl⟩⟩ := step_fault_cases h
  · simp [hkeep, hnone] at hfault
  · simp [hrecord] at hfault
  · simp [hrecord] at hfault

end Sys2Proof.Machine
end

section
/-! PROOFS of the statements about reset, load and the hazards (70_reset_and_hazards.md). A load reads back by one
lemma, `Memory.read_writeList_zero`; it is refused by the guard of `load` alone, and a load or an enabled step closes the
window that the guard asks for. A PUSH over its own operand is a PUSH like any other: the operand was decoded before the
store. -/

namespace Sys2Proof.Machine

section HostMoves

variable {c : Config} {bytes : List Byte} {s t : State}

/-- The register file after reset (70_reset_and_hazards.md R101). -/
theorem State.resetWith_reg (c : Config) (r : Reg) :
    (State.resetWith c).reg r = if r = spIndex then c.spInit else 0#8 := by
  simp only [State.reg, State.resetWith, Fin.getElem_fin, Vector.getElem_set, Vector.getElem_replicate, Fin.ext_iff,
    eq_comm]

/-- Memory under an image that starts at address 0 (70_reset_and_hazards.md R104). -/
theorem Memory.read_writeList_zero {m : Memory} (hm : m.wf) (bytes : List Byte) (n : Nat) :
    (m.writeList 0 bytes).read n = bytes.getD n (m.read n) := by
  rw [Memory.read_writeList hm]
  by_cases hn : n < bytes.length <;> simp [hn]

theorem load_eq_refused : load c bytes s = .refused ↔ c.memSize < bytes.length ∨ s.loadOpen = false := by
  unfold load
  split_ifs with h
  · exact iff_of_true rfl h.symm
  · exact iff_of_false nofun fun hrefused => h hrefused.symm

/-- An enabled step closes the load window, with a fault or without (70_reset_and_hazards.md R105). -/
theorem step_loadOpen_eq_false (hs : s.status = .running) (h : step s = .next t) : t.loadOpen = false := by
  obtain ⟨hstop, -⟩ | ⟨-, ⟨e, rfl⟩ | ⟨i, -, -, hdone⟩⟩ := step_next h
  · exact absurd hs hstop
  · rfl
  · exact hdone.loadOpen_eq

/-- Three bytes that begin with PUSH's opcode byte decode to a PUSH of the second. -/
theorem State.decodeAtPc_push (hopc : s.mem.read s.pc = hardware.opcPush) :
    s.decodeAtPc hardware = .ok (.push (s.mem.read (s.pc + 1))) :=
  (decode_eq_ok hardware_legal).mpr ⟨hopc, ⟨[s.mem.read (s.pc + 2)], rfl⟩⟩

end HostMoves

/-- Settles O52: the register file by its lemma, the other fields by definition. -/
theorem resetState : Obligations.ResetState :=
  ⟨State.resetWith_reg hardware, rfl, rfl, Memory.read_nil, rfl, rfl, rfl, rfl, fun _ => rfl⟩

/-- Settles O53: a read finds the image's byte, or what memory held where the image has ended. -/
theorem loadCopiesImage : Obligations.LoadCopiesImage := by
  intro c bytes s hopen hfits hwf
  have hread := Memory.read_writeList_zero hwf bytes
  refine ⟨_, load_eq_accepted.mpr ⟨hopen, hfits, rfl⟩, fun n hn => ?_, fun n hn => ?_, rfl, rfl, rfl, rfl, rfl, rfl⟩
  · rw [hread, List.getD_eq_getElem _ _ hn, List.getD_eq_getElem _ _ hn]
  · rw [hread, List.getD_eq_default _ _ hn]

/-- Settles O54: an accepted load and an enabled step each leave the window closed. -/
theorem loadRefusals : Obligations.LoadRefusals := by
  intro c bytes s
  refine ⟨load_eq_refused, fun t hload more => ?_, fun t hs hstep => ?_⟩
  · obtain ⟨-, -, rfl⟩ := load_eq_accepted.mp hload
    exact load_eq_refused.mpr (.inr rfl)
  · exact load_eq_refused.mpr (.inr (step_loadOpen_eq_false hs hstep))

/-- Settles O44: the operand is decoded before the store, and the store's cell, at the old `SP` - 1 = `pc` + 1, is the
operand's own. -/
theorem pushOverItsOwnOperand : Obligations.PushOverItsOwnOperand := by
  intro s r hs hpc hwf hopc ha hsp
  have hne : s.sp ≠ 0#8 := by bv_omega
  have hslot : s.sp.toNat - 1 = s.pc + 1 := by omega
  have hstep : step s = exec (.push (s.mem.read (s.pc + 1))) s.closeLoad :=
    stepRunsDecodedInstruction s _ hs hpc (State.decodeAtPc_push hopc)
  have hpush := pushWith_of_pushSlot_ok (s := s.closeLoad) (regOperand_eq_ok.mpr ha)
    (pushSlot_hardware_of_ne_zero hne)
  refine ⟨_, hstep.trans hpush, ?_, rfl, hs⟩
  rw [← State.spDec_reg_eq_ite, ← hslot]
  exact Memory.read_write_eq hwf _ _

end Sys2Proof.Machine
end
